-- ==== Sys2Proof/Word.lean ====
section
/-! DEFINITION. The two bit-vector types of PSPF: the 32-bit register word and the 8-bit memory byte
(00_scope.md R4, section 4: REG_W = 32, ADDR_W = 32). -/

namespace Sys2Proof

/-- A register value, a command word or a memory address: 32 bits, unsigned (R4, R98). -/
abbrev Word := BitVec 32

/-- A memory byte, 0..255 (R61). -/
abbrev Byte := BitVec 8

end Sys2Proof
end

