-- ==== Sys2Proof/Syntax.lean ====
section
/-! DEFINITION. The commands of PSPF-CMD version 1, one constructor per row of spec/opcode_table.json
(30_encoding.md R90 to R94 and section 4). A command carries no address or length (R97): its only
operands in the word are the bit depth and the colour type of format F, unsigned numbers (R98). -/

namespace Sys2Proof

/-- One constructor per row of the opcode table. `bd` is the bit depth, `ct` the colour type (R92). -/
inductive Instr where
  /-- NOP (R176): nothing but acceptance and completion. -/
  | nop
  /-- FILTER.NONE (R141): every row uses filter type 0. -/
  | filterNone (bd ct : Nat)
  /-- FILTER.SUB (R142): every row uses filter type 1. -/
  | filterSub (bd ct : Nat)
  /-- FILTER.UP (R143): every row uses filter type 2. -/
  | filterUp (bd ct : Nat)
  /-- FILTER.AVG (R144): every row uses filter type 3. -/
  | filterAvg (bd ct : Nat)
  /-- FILTER.PAETH (R145): every row uses filter type 4. -/
  | filterPaeth (bd ct : Nat)
  /-- FILTER.AUTO (R140): each row uses the type the heuristic selects. -/
  | filterAuto (bd ct : Nat)
  /-- FRAME (R172): frame a payload as a PNG chunk. -/
  | frame
  /-- CRC (R175): the CRC32 of a memory range. -/
  | crc
  deriving DecidableEq, Repr

end Sys2Proof
end

