-- ==== Sys2Proof/WellFormed.lean ====
section
/-! DEFINITION. Which instructions a command word can hold: BD and CT are unsigned 8-bit fields
(30_encoding.md R92, R98). -/

namespace Sys2Proof

/-- A format-F operand pair fits its two 8-bit fields (R92). -/
def formatFieldsFit (bd ct : Nat) : Bool := decide (bd < 256) && decide (ct < 256)

/-- The instruction has an encoding: both format fields are 8-bit values. -/
def WellFormed : Instr → Bool
  | .nop => true
  | .filterNone bd ct => formatFieldsFit bd ct
  | .filterSub bd ct => formatFieldsFit bd ct
  | .filterUp bd ct => formatFieldsFit bd ct
  | .filterAvg bd ct => formatFieldsFit bd ct
  | .filterPaeth bd ct => formatFieldsFit bd ct
  | .filterAuto bd ct => formatFieldsFit bd ct
  | .frame => true
  | .crc => true

end Sys2Proof
end

