-- ==== Sys2Proof/Decode.lean ====
section
/-! DEFINITION. Decoding, a total function of the 32-bit command word that rejects by name (30_encoding.md
R99), and the encoder written from the same tables (R90 to R94). The opcode table's match and mask
columns stand here too (30_encoding.md section 4). -/

namespace Sys2Proof

/-- Why a command word is no instruction. -/
inductive DecodeError where
  /-- OP in 4..15 (R95): the command completes with ERR_OPCODE. -/
  | reservedOpcode
  /-- A reserved bit set, or FSEL in 5, 6 (R96): the command completes with ERR_FIELD. -/
  | reservedField
  deriving DecidableEq, Repr

/-- OP = `w[3:0]` (R91). -/
def opField (w : Word) : Nat := (w.extractLsb' 0 4).toNat

/-- FSEL = `w[6:4]` (R93). -/
def fselField (w : Word) : Nat := (w.extractLsb' 4 3).toNat

/-- BD = `w[15:8]` (R92). -/
def bdField (w : Word) : Nat := (w.extractLsb' 8 8).toNat

/-- CT = `w[23:16]` (R92). -/
def ctField (w : Word) : Nat := (w.extractLsb' 16 8).toNat

/-- Format S: bits [31:4] are reserved and must be 0 (R94). -/
def simpleReservedClear (w : Word) : Bool := w.extractLsb' 4 28 == 0#28

/-- Format F: bits [31:24] and bit 7 are reserved and must be 0 (R90). -/
def filterReservedClear (w : Word) : Bool := w.extractLsb' 24 8 == 0#8 && !w.getLsbD 7

/-- The format-F instruction a filter-selection value names (R93); 5 and 6 are reserved (R96). -/
def filterOfFsel (fsel bd ct : Nat) : Option Instr :=
  match fsel with
  | 0 => some (.filterNone bd ct)
  | 1 => some (.filterSub bd ct)
  | 2 => some (.filterUp bd ct)
  | 3 => some (.filterAvg bd ct)
  | 4 => some (.filterPaeth bd ct)
  | 7 => some (.filterAuto bd ct)
  | _ => none

/-- A format-S word: the instruction, unless a reserved bit is set (R96). -/
def decodeSimple (w : Word) (i : Instr) : Except DecodeError Instr :=
  if simpleReservedClear w then .ok i else .error .reservedField

/-- A format-F word (R96, R99). -/
def decodeFilter (w : Word) : Except DecodeError Instr :=
  if filterReservedClear w then
    match filterOfFsel (fselField w) (bdField w) (ctField w) with
    | some i => .ok i
    | none => .error .reservedField
  else .error .reservedField

/-- `decode(w)` of R99: the opcode first, then the reserved bits of that opcode's format. -/
def decode (w : Word) : Except DecodeError Instr :=
  match opField w with
  | 0 => decodeSimple w .nop
  | 1 => decodeFilter w
  | 2 => decodeSimple w .frame
  | 3 => decodeSimple w .crc
  | _ => .error .reservedOpcode

/-- The instruction the decoder reads from a word of `nbits` bits whose further bits are 0. A command is
one 32-bit word (R90), so it has no second word and no byte order of its own. -/
def decodeTableWord (nbits w : Nat) : Option Instr :=
  match decode (BitVec.ofNat 32 (w % 2 ^ nbits)) with
  | .ok i => some i
  | .error _ => none

/-- The fields of format F laid out (R90): CT, BD, a reserved 0, FSEL, OP = 1. -/
def filterWord (fsel bd ct : Nat) : Word :=
  BitVec.ofNat 32 (1 + 16 * fsel + 256 * (bd % 256) + 65536 * (ct % 256))

/-- The command word of an instruction (R90, R93, R94). -/
def encode : Instr → Word
  | .nop => 0x00000000#32
  | .filterNone bd ct => filterWord 0 bd ct
  | .filterSub bd ct => filterWord 1 bd ct
  | .filterUp bd ct => filterWord 2 bd ct
  | .filterAvg bd ct => filterWord 3 bd ct
  | .filterPaeth bd ct => filterWord 4 bd ct
  | .filterAuto bd ct => filterWord 7 bd ct
  | .frame => 0x00000002#32
  | .crc => 0x00000003#32

/-- The match column of the opcode map (30_encoding.md section 4). -/
def tableMatch : Instr → Word
  | .nop => 0x00000000#32
  | .filterNone _ _ => 0x00000001#32
  | .filterSub _ _ => 0x00000011#32
  | .filterUp _ _ => 0x00000021#32
  | .filterAvg _ _ => 0x00000031#32
  | .filterPaeth _ _ => 0x00000041#32
  | .filterAuto _ _ => 0x00000071#32
  | .frame => 0x00000002#32
  | .crc => 0x00000003#32

/-- The mask column of the opcode map (30_encoding.md section 4). -/
def tableMask : Instr → Word
  | .nop => 0xFFFFFFFF#32
  | .filterNone _ _ => 0xFF0000FF#32
  | .filterSub _ _ => 0xFF0000FF#32
  | .filterUp _ _ => 0xFF0000FF#32
  | .filterAvg _ _ => 0xFF0000FF#32
  | .filterPaeth _ _ => 0xFF0000FF#32
  | .filterAuto _ _ => 0xFF0000FF#32
  | .frame => 0xFFFFFFFF#32
  | .crc => 0xFFFFFFFF#32

end Sys2Proof
end

