-- ==== Sys2Proof/Config.lean ====
section
/-! DEFINITION. What is fixed for the hardware (00_scope.md section 4), what an unlisted memory byte
reads as, and the one family of free values: bytes the spec leaves unspecified. -/

namespace Sys2Proof

/-- `bpp = 4` bytes per pixel, a constant of the hardware (R3). -/
def Config.bpp : Nat := 4

/-- CONFIG.LOG2_MAX_WIDTH (R26). -/
def Config.log2MaxWidth : Nat := 22

/-- `MAX_WIDTH` = 2^22 pixels (R26, R35). -/
def Config.maxWidth : Nat := 2 ^ Config.log2MaxWidth

/-- The number of byte addresses of memory, 2^32 (R60). -/
def Config.addressSpace : Nat := 2 ^ 32

/-- The size of the register window, 4 KiB (R22). -/
def Config.windowSize : Nat := 4096

/-- The 4 KiB page number of `BASE` in `State.reset`. DESIGN CHOICE (log 4): `BASE` is a parameter of the
platform (R22, U1), held in `State.platform`; this is only the value the reset state starts with. -/
def Config.resetBasePage : BitVec 20 := 0x40000#20

/-- What a byte of memory that nothing has written reads as. DESIGN CHOICE (log 5), the start state of
95_test_vectors.md section 6 ("every other memory byte 0"). -/
def Config.unlistedByte : Byte := 0

/-- A free value (log 8): the k-th byte the spec leaves unspecified (R205, R241, U4). No body, so nothing
can be proved about any one of them. -/
opaque Config.freeByte : Nat → BitVec 8

end Sys2Proof
end

