-- ==== Sys2Proof/Machine/State.lean ====
section
/-! DEFINITION. The machine's state as plain data (10_state.md, 20_memory.md), its reset value, and the
reasons a step can stop. -/

namespace Sys2Proof.Machine

/-- Memory: the bytes that differ from `Config.unlistedByte`, by strictly rising address (R60, R61). -/
abbrev Memory := List Host.Cell

/-- The named errors a command can end with (R200). -/
inductive ErrCode where
  /-- OP in 4..15. -/
  | opcode
  /-- A reserved bit set, or FSEL in 5, 6. -/
  | field
  /-- BD is not 8 or CT is not 6. -/
  | format
  /-- WIDTH is 0 or above MAX_WIDTH, or HEIGHT is 0. -/
  | dim
  /-- SRC_LEN is not WIDTH*HEIGHT*4. -/
  | len
  /-- The output is longer than DST_CAP. -/
  | cap
  /-- A range ends beyond 2^32. -/
  | range
  /-- The read and write ranges intersect. -/
  | overlap
  /-- The memory system answered an access with an error. -/
  | bus
  deriving DecidableEq, Repr

/-- STATUS, field by field (R28). `busy` is the IDLE/BUSY state of R43. -/
structure Status where
  /-- Bit 0, RO. -/
  busy : Bool
  /-- Bit 1, W1C. -/
  done : Bool
  /-- Bit 2, W1C. -/
  err : Bool
  /-- Bit 3, W1C, sticky. -/
  ovr : Bool
  /-- Bits [7:4], RO. -/
  errcode : BitVec 4
  deriving DecidableEq, Repr

/-- The eight parameter registers (R31 to R38); the latches `lat.*` have the same shape (R45). -/
structure Params where
  /-- SRC_ADDR (R31). -/
  srcAddr : Word
  /-- SRC_LEN (R32). -/
  srcLen : Word
  /-- DST_ADDR (R33). -/
  dstAddr : Word
  /-- DST_CAP (R34). -/
  dstCap : Word
  /-- WIDTH (R35). -/
  width : Word
  /-- HEIGHT (R36). -/
  height : Word
  /-- CHUNK_TYPE (R37). -/
  chunkType : Word
  /-- CRC_SEED (R38). -/
  crcSeed : Word
  deriving DecidableEq, Repr

/-- The result registers (R39 to R42). -/
structure Results where
  /-- CRC_RESULT (R39). -/
  crcResult : Word
  /-- OUT_LEN (R40). -/
  outLen : Word
  /-- LAST_FILTER bits [2:0] (R41). -/
  lastFilter : BitVec 3
  /-- COST_SUB (R42). -/
  costSub : Word
  /-- COST_UP (R42). -/
  costUp : Word
  /-- COST_AVG (R42). -/
  costAvg : Word
  /-- COST_PAETH (R42). -/
  costPaeth : Word
  deriving DecidableEq, Repr

/-- The addresses `base .. base + len - 1`. -/
structure AddrRange where
  /-- The first address. -/
  base : Nat
  /-- The number of addresses. -/
  len : Nat
  deriving DecidableEq, Repr

/-- What a range of the platform's address map is when it is not normal memory, for reads and writes alike:
DESIGN CHOICE (log 25). -/
inductive RegionKind where
  /-- A device with side effects (R66, U6). -/
  | device
  /-- Addresses the platform's memory does not admit (R205's last sentence, U3). -/
  | absent
  /-- Addresses to which the memory system answers a block access with an error (R205). -/
  | busError
  deriving DecidableEq, Repr

/-- One entry of the platform's map. -/
structure Region where
  /-- Its addresses. -/
  range : AddrRange
  /-- What stands there. -/
  kind : RegionKind
  deriving DecidableEq, Repr

/-- The platform's parameters: `BASE` as its 4 KiB page number, so that `BASE` is a multiple of 4096
(R22, U1), and the map of what is not normal memory. No step changes them (log 4). -/
structure Platform where
  /-- `BASE` / 4096. -/
  basePage : BitVec 20
  /-- What is not normal memory, besides the register window. -/
  regions : List Region
  deriving DecidableEq, Repr

/-- The buffers of one accepted command, handed to the block until the host observes its completion
(R245, R71). The model's own field (log 10). -/
structure Hold where
  /-- The command's read range (R62). -/
  reads : AddrRange
  /-- The command's write range (R62). -/
  writes : AddrRange
  deriving DecidableEq, Repr

/-- The width of a host access to the register window (R23). -/
inductive AccessSize where
  | byte
  | half
  | word
  deriving DecidableEq, Repr

/-- One turn of the schedule (R251): the engine's, or one interaction of the world outside the block. -/
inductive Event where
  /-- The engine's turn: the execution step if the block is BUSY (R47), nothing if it is IDLE. -/
  | engine
  /-- A host read of the register window at a byte offset (R22, R23). -/
  | regRead (off : BitVec 12) (size : AccessSize)
  /-- A host write of the register window at a byte offset (R22, R23). -/
  | regWrite (off : BitVec 12) (size : AccessSize) (v : Word)
  /-- A host read of one byte of memory. -/
  | memRead (a : Word)
  /-- A host write of one byte of memory. -/
  | memWrite (a : Word) (v : Byte)
  /-- The host's `wait` (R100): poll STATUS until BUSY = 0. -/
  | wait
  /-- The reset input (R240). -/
  | reset
  deriving DecidableEq, Repr

/-- What a host read returned (R22). -/
inductive Reply where
  /-- A register read: the offset and the word. -/
  | reg (off : BitVec 12) (v : Word)
  /-- A memory read: the address and the byte. -/
  | mem (a : Word) (v : Byte)
  deriving DecidableEq, Repr

/-- The whole machine. ID and CONFIG are constants, CMD holds nothing, and `irq` is a function of
`irqEn` and `status.done`, so none of them is a field. -/
structure State where
  /-- CTRL.IRQ_EN (R27). -/
  irqEn : Bool
  /-- STATUS (R28). -/
  status : Status
  /-- The live parameter registers (R31 to R38). -/
  params : Params
  /-- The result registers (R39 to R42). -/
  results : Results
  /-- lat.CMD (R44). -/
  latCmd : Word
  /-- lat.* (R45). -/
  lat : Params
  /-- Memory (R60). -/
  mem : Memory
  /-- The platform's parameters (R22, R66, R205). -/
  platform : Platform
  /-- Buffers handed over and not yet given back (R245); the model's own field (log 10). -/
  holds : List Hold
  /-- How many free bytes have been drawn; the model's own field (log 8). -/
  freeCtr : Nat
  /-- The events still to come (R251); the model's own field (log 1). -/
  schedule : List Event
  /-- What the host's reads returned, newest first; the model's own field (log 13). -/
  replies : List Reply
  deriving DecidableEq, Repr

/-- Why the machine stops with a fault. Every one is safe: the model stops where the hardware goes on. -/
inductive Fault where
  /-- A host access to the register window that is not an aligned 32-bit access (R23, U2). Raised by
  the host's accesses. Safe. -/
  | hostAccess
  /-- A host access to a buffer handed to the block: a write to a read range or any access to a write
  range (R245, U5). Raised by the host's memory accesses. Safe. -/
  | hazard
  /-- A host access to memory the platform does not admit or answers with an error; what the host's
  processor then does is the platform's. Raised by the host's memory accesses. Safe. -/
  | hostUnmapped
  /-- A block access the platform's memory does not admit (R205's last sentence, U3). Raised by
  FILTER, FRAME and CRC. Safe. -/
  | accessNotAdmitted
  deriving DecidableEq, Repr

/-- Why the model gives no meaning. -/
inductive Refusal where
  /-- An instruction whose meaning is not written yet. Raised by exec's arms. Safe. -/
  | notModelled (mnemonic : String)
  /-- A command whose read or write range covers a device with side effects, the register window among
  them (R66, U6). Raised by FILTER, FRAME and CRC. Safe. -/
  | deviceRange
  /-- A host memory access to a device outside the block. Raised by the host's memory accesses. Safe. -/
  | hostDevice
  deriving DecidableEq, Repr

/-- STATUS after reset (R28). -/
def Status.reset : Status :=
  { busy := false, done := false, err := false, ovr := false, errcode := 0#4 }

/-- The parameter registers after reset (R52). -/
def Params.reset : Params :=
  { srcAddr := 0#32, srcLen := 0#32, dstAddr := 0#32, dstCap := 0#32,
    width := 0#32, height := 0#32, chunkType := 0#32, crcSeed := 0#32 }

/-- The result registers after reset (R52). -/
def Results.reset : Results :=
  { crcResult := 0#32, outLen := 0#32, lastFilter := 0#3,
    costSub := 0#32, costUp := 0#32, costAvg := 0#32, costPaeth := 0#32 }

/-- The machine right after reset (R52, R240): every register at its reset value, IDLE, memory with
nothing listed, no event to come. The latches are unspecified and unobservable (U7): 0, a DESIGN CHOICE
(log 6). The platform is a parameter whose value here is a DESIGN CHOICE (log 4). -/
def State.reset : State :=
  { irqEn := false, status := Status.reset, params := Params.reset, results := Results.reset,
    latCmd := 0#32, lat := Params.reset, mem := [],
    platform := { basePage := Config.resetBasePage, regions := [] },
    holds := [], freeCtr := 0, schedule := [], replies := [] }

end Sys2Proof.Machine
end

