-- ==== Sys2Proof/Machine/Flags.lean ====
section
/-! DEFINITION. Every flag computation: the error codes, STATUS as a word, its W1C write, what acceptance
and completion make of it, and the interrupt output (R28, R29, R44, R48, R200, R209). -/

namespace Sys2Proof.Machine

/-- The code of an error in STATUS.ERRCODE (R200). -/
def ErrCode.code : ErrCode → BitVec 4
  | .opcode => 1#4
  | .field => 2#4
  | .format => 3#4
  | .dim => 4#4
  | .len => 5#4
  | .cap => 6#4
  | .range => 7#4
  | .overlap => 8#4
  | .bus => 9#4

/-- The error a reserved command word completes with (R95, R96). -/
def decodeErrCode : DecodeError → ErrCode
  | .reservedOpcode => .opcode
  | .reservedField => .field

/-- STATUS as the host reads it (R28): reserved bits 0, ERRCODE in [7:4]. -/
def Status.word (st : Status) : Word :=
  BitVec.ofNat 32
    (st.busy.toNat + 2 * st.done.toNat + 4 * st.err.toNat + 8 * st.ovr.toNat + 16 * st.errcode.toNat)

/-- A host write to STATUS (R29): bits 1, 2, 3 written as 1 clear DONE, ERR with ERRCODE, and OVR. -/
def Status.writeOneToClear (st : Status) (v : Word) : Status :=
  { busy := st.busy
    done := st.done && !v.getLsbD 1
    err := st.err && !v.getLsbD 2
    ovr := st.ovr && !v.getLsbD 3
    errcode := if v.getLsbD 2 then 0#4 else st.errcode }

/-- STATUS at acceptance (R44). -/
def Status.accepted (st : Status) : Status :=
  { st with busy := true, done := false, err := false, errcode := 0#4 }

/-- STATUS when a command word is dropped (R46). -/
def Status.dropped (st : Status) : Status := { st with ovr := true }

/-- STATUS at a successful completion (R204). -/
def Status.completed (st : Status) : Status :=
  { st with busy := false, done := true, err := false, errcode := 0#4 }

/-- STATUS at a completion with an error (R48, R203). -/
def Status.failed (st : Status) (e : ErrCode) : Status :=
  { st with busy := false, done := true, err := true, errcode := e.code }

/-- The interrupt output, `CTRL.IRQ_EN AND STATUS.DONE` at every instant (R209). -/
def irq (s : State) : Bool := s.irqEn && s.status.done

end Sys2Proof.Machine
end

