-- ==== Sys2Proof/Machine/Operands.lean ====
section
/-! DEFINITION. Operand forms: big-endian bytes of a word, address ranges, the read and write range of each
command, and the checks a command makes of its latched operands (R6, R62, R97, R137, R168, R173). -/

namespace Sys2Proof.Machine

/-- `be32(v)`: four bytes, most significant first (R6). -/
def be32 (v : Word) : List Byte :=
  [v.extractLsb' 24 8, v.extractLsb' 16 8, v.extractLsb' 8 8, v.extractLsb' 0 8]

/-- `overlap(s, ls, d, ld)` of R137, on exact integers. -/
def overlap (s ls d ld : Nat) : Bool :=
  decide (0 < ls) && decide (0 < ld) && decide (s < d + ld) && decide (d < s + ls)

/-- Two ranges share an address. -/
def AddrRange.meets (r q : AddrRange) : Bool := overlap r.base r.len q.base q.len

/-- The address lies in the range. -/
def AddrRange.has (r : AddrRange) (a : Nat) : Bool := decide (r.base ≤ a) && decide (a < r.base + r.len)

/-- The part of a range that lies in the address space. -/
def AddrRange.clip (r : AddrRange) : AddrRange :=
  { base := r.base, len := min r.len (Config.addressSpace - r.base) }

/-- No address at all. -/
def AddrRange.empty : AddrRange := { base := 0, len := 0 }

/-- The register window at `BASE` (R22, R68). -/
def Platform.window (pl : Platform) : AddrRange :=
  { base := pl.basePage.toNat * Config.windowSize, len := Config.windowSize }

/-- The range meets a region of the kind. DESIGN CHOICE (log 25): one kind for reads and writes. -/
def Platform.meetsKind (pl : Platform) (k : RegionKind) (r : AddrRange) : Bool :=
  pl.regions.any fun g => decide (g.kind = k) && r.meets g.range

/-- The range covers a device with side effects, the register window among them (R66). -/
def Platform.meetsDevice (pl : Platform) (r : AddrRange) : Bool :=
  r.meets pl.window || pl.meetsKind .device r

/-- `bw = 4*W` (R120). -/
def byteWidth (p : Params) : Nat := Config.bpp * p.width.toNat

/-- The length of FILTER's output, `(bw + 1) * H`, exact (R137). -/
def filterOutLen (p : Params) : Nat := (byteWidth p + 1) * p.height.toNat

/-- The length of FRAME's output, `L + 12`, exact (R168). -/
def frameOutLen (p : Params) : Nat := p.srcLen.toNat + 12

/-- `[SRC_ADDR, SRC_ADDR + SRC_LEN)` (R62). -/
def sourceRange (p : Params) : AddrRange := { base := p.srcAddr.toNat, len := p.srcLen.toNat }

/-- FILTER's write range (R62). -/
def filterDestRange (p : Params) : AddrRange := { base := p.dstAddr.toNat, len := filterOutLen p }

/-- FRAME's write range (R62). -/
def frameDestRange (p : Params) : AddrRange := { base := p.dstAddr.toNat, len := frameOutLen p }

/-- The read range of a command (R62). -/
def readRange (i : Instr) (p : Params) : AddrRange :=
  match i with
  | .nop => AddrRange.empty
  | .filterNone _ _ => sourceRange p
  | .filterSub _ _ => sourceRange p
  | .filterUp _ _ => sourceRange p
  | .filterAvg _ _ => sourceRange p
  | .filterPaeth _ _ => sourceRange p
  | .filterAuto _ _ => sourceRange p
  | .frame => sourceRange p
  | .crc => sourceRange p

/-- The write range of a command (R62). -/
def writeRange (i : Instr) (p : Params) : AddrRange :=
  match i with
  | .nop => AddrRange.empty
  | .filterNone _ _ => filterDestRange p
  | .filterSub _ _ => filterDestRange p
  | .filterUp _ _ => filterDestRange p
  | .filterAvg _ _ => filterDestRange p
  | .filterPaeth _ _ => filterDestRange p
  | .filterAuto _ _ => filterDestRange p
  | .frame => frameDestRange p
  | .crc => AddrRange.empty

/-- The read range of a command word; a reserved word reads nothing (R95, R96). -/
def wordReads (w : Word) (p : Params) : AddrRange :=
  match decode w with
  | .ok i => readRange i p
  | .error _ => AddrRange.empty

/-- The write range of a command word; a reserved word writes nothing (R95, R96). -/
def wordWrites (w : Word) (p : Params) : AddrRange :=
  match decode w with
  | .ok i => writeRange i p
  | .error _ => AddrRange.empty

/-- The range ends beyond 2^32 (R67). -/
def AddrRange.leaves (r : AddrRange) : Bool := decide (Config.addressSpace < r.base + r.len)

/-- `filter_checks(bd, ct)` (R137): the first failing check, in the rule's order. -/
def filterChecks (bd ct : Nat) (p : Params) : Option ErrCode :=
  if ¬ (bd = 8 ∧ ct = 6) then some .format
  else if p.width.toNat = 0 ∨ Config.maxWidth < p.width.toNat ∨ p.height.toNat = 0 then some .dim
  else if p.srcLen.toNat ≠ byteWidth p * p.height.toNat then some .len
  else if p.dstCap.toNat < filterOutLen p then some .cap
  else if (sourceRange p).leaves || (filterDestRange p).leaves then some .range
  else if (sourceRange p).meets (filterDestRange p) then some .overlap
  else none

/-- `frame_checks()` (R168), the in-place payload allowed (R169). -/
def frameChecks (p : Params) : Option ErrCode :=
  if p.dstCap.toNat < frameOutLen p then some .cap
  else if (sourceRange p).leaves || (frameDestRange p).leaves then some .range
  else if (sourceRange p).meets (frameDestRange p) && decide (p.srcAddr.toNat ≠ p.dstAddr.toNat + 8) then
    some .overlap
  else none

/-- The CRC command's check (R173). -/
def crcChecks (p : Params) : Option ErrCode :=
  if (sourceRange p).leaves then some .range else none

end Sys2Proof.Machine
end

