-- ==== Sys2Proof/Machine/Ops.lean ====
section
/-! DEFINITION. The named operations every command and every host access is written over: acceptance,
the two completions, the platform's say over a command's ranges, drawing unspecified bytes, and reset. -/

namespace Sys2Proof.Machine

/-- Acceptance of a command word (R44, R45). The ranges the command hands to the block are noted in
`holds` (R245, log 10). -/
def accept (w : Word) (s : State) : State :=
  { s with
    latCmd := w
    lat := s.params
    status := s.status.accepted
    holds := { reads := wordReads w s.params, writes := wordWrites w s.params } :: s.holds }

/-- `complete()` (R204). -/
def complete (s : State) : State := { s with status := s.status.completed }

/-- `raise Error(code)`: the command ends with an error. No result register and, but for what ERR_BUS has
already done, no memory changes (R48, R203). Nothing is saved, no mode changes, nothing is entered
(R206). -/
def raiseError (e : ErrCode) (s : State) : State := { s with status := s.status.failed e }

/-- The host's acknowledgement, the way back from an error: the W1C write to STATUS (R29, R207). -/
def acknowledge (v : Word) (s : State) : State := { s with status := s.status.writeOneToClear v }

/-- `n` unspecified bytes, the `k`-th draw first (R205, R241, log 8). -/
def freeBytes (k n : Nat) : List Byte := (List.range n).map fun i => Config.freeByte (k + i)

/-- Every byte of the range that lies in the address space takes an unspecified value. -/
def drawRange (r : AddrRange) (s : State) : State :=
  { s with
    mem := s.mem.writeBytes r.clip.base (freeBytes s.freeCtr r.clip.len)
    freeCtr := s.freeCtr + r.clip.len }

/-- A command stopped by the memory system's error: ERR_BUS, its write range unspecified (R205). -/
def busFailure (writes : AddrRange) (s : State) : State := raiseError .bus (drawRange writes s)

/-- What the platform makes of a command that passed its checks, by the addresses it accesses: a device is
refused (R66, U6), an address not admitted is a fault (R205, U3), an error response is ERR_BUS (R205), and
in normal memory the command has its effect. DESIGN CHOICE (log 22): the refusal of U6 comes here, at the
engine's turn, and not at the acceptance of the word. DESIGN CHOICE (log 25): an address answers a read and a
write alike. -/
def guardAccess (reads writes : AddrRange) (effect : State → State) (s : State) :
    Host.Outcome State Fault Refusal :=
  if s.platform.meetsDevice reads || s.platform.meetsDevice writes then .refused .deviceRange
  else if s.platform.meetsKind .absent reads || s.platform.meetsKind .absent writes then
    .fault .accessNotAdmitted
  else if s.platform.meetsKind .busError reads || s.platform.meetsKind .busError writes then
    .next (busFailure writes s)
  else .next (effect s)

/-- A command: the first failing check ends it before any access (R202, R203); then the platform's say. -/
def runChecked (failed : Option ErrCode) (reads writes : AddrRange) (effect : State → State) (s : State) :
    Host.Outcome State Fault Refusal :=
  match failed with
  | some e => .next (raiseError e s)
  | none => guardAccess reads writes effect s

/-- Memory after the reset input: a command it abandons leaves its write range unspecified (R241); an IDLE
block's reset changes no memory (R242). DESIGN CHOICE (log 9): a byte in the read range as well (an in-place
FRAME, R169, or a word whose overlap check would fail) is drawn with the write range. DESIGN CHOICE (log 22):
a command over a device that the reset input abandons is no refusal, and its write range is drawn on the
device's addresses too. DESIGN CHOICE (log 24): one over addresses the platform does not admit, or answers with
an error, that the reset input abandons is no fault and no ERR_BUS, and its write range is drawn there too. -/
def abandon (s : State) : State :=
  if s.status.busy then drawRange (wordWrites s.latCmd s.lat) s else s

/-- The reset input (R240): every register at its reset value, IDLE. Memory, the platform and the world
outside the block are not reset (R242, log 9). -/
def resetInput (s : State) : State :=
  { State.reset with
    mem := (abandon s).mem
    freeCtr := (abandon s).freeCtr
    platform := s.platform
    schedule := s.schedule
    replies := s.replies }

end Sys2Proof.Machine
end

