-- ==== Sys2Proof/Machine/Framer.lean ====
section
/-! DEFINITION. The CRC32 function, the chunk layout, and the FRAME, CRC and NOP instructions
(41_framer.md). -/

namespace Sys2Proof.Machine

/-- The reflected polynomial (R160, K1). -/
def crcPolynomial : Word := 0xEDB88320#32

/-- One bit of the CRC, least significant first (R160). -/
def crcBit (c : Word) : Word := if c.getLsbD 0 then (c >>> 1) ^^^ crcPolynomial else c >>> 1

/-- `n` bits of the CRC. -/
def crcBits : Nat → Word → Word
  | 0, c => c
  | n + 1, c => crcBits n (crcBit c)

/-- One byte of the CRC: the byte, zero-extended, into the register, then 8 bits (R160). -/
def crcByte (c : Word) (v : Byte) : Word := crcBits 8 (c ^^^ v.zeroExtend 32)

/-- `crc32(seed, B)` (R160). -/
def crc32 (seed : Word) (bytes : List Byte) : Word :=
  bytes.foldl crcByte (seed ^^^ 0xFFFFFFFF#32) ^^^ 0xFFFFFFFF#32

/-- The chunk's CRC: type bytes and payload, not the length, seed 0 (R163). -/
def chunkCrc (tag : Word) (payload : List Byte) : Word := crc32 0#32 (be32 tag ++ payload)

/-- The chunk of a payload (R162): length, type, payload, CRC. -/
def chunkBytes (tag : Word) (payload : List Byte) : List Byte :=
  be32 (BitVec.ofNat 32 payload.length) ++ be32 tag ++ payload ++ be32 (chunkCrc tag payload)

/-- The source bytes of FRAME and CRC (R170, R174): none when SRC_LEN = 0. -/
def sourceBytes (s : State) : List Byte := s.mem.readBytes s.lat.srcAddr.toNat s.lat.srcLen.toNat

/-- The successful execution of FRAME (R170, R171). -/
def frameDone (s : State) : State :=
  complete
    { s with
      mem := s.mem.writeBytes s.lat.dstAddr.toNat (chunkBytes s.lat.chunkType (sourceBytes s))
      results :=
        { s.results with
          crcResult := chunkCrc s.lat.chunkType (sourceBytes s)
          outLen := BitVec.ofNat 32 (frameOutLen s.lat) } }

/-- The successful execution of CRC (R174). -/
def crcDone (s : State) : State :=
  complete { s with results := { s.results with crcResult := crc32 s.lat.crcSeed (sourceBytes s) } }

/-- FRAME (R172). -/
def execFrame (s : State) : Host.Outcome State Fault Refusal :=
  runChecked (frameChecks s.lat) (sourceRange s.lat) (frameDestRange s.lat) frameDone s

/-- CRC (R175). -/
def execCrc (s : State) : Host.Outcome State Fault Refusal :=
  runChecked (crcChecks s.lat) (sourceRange s.lat) AddrRange.empty crcDone s

/-- NOP (R176). -/
def execNop (s : State) : Host.Outcome State Fault Refusal := .next (complete s)

end Sys2Proof.Machine
end

