-- ==== Sys2Proof/Machine/Predictor.lean ====
section
/-! DEFINITION. The Predictor: rows, neighbours, the five transforms, cost, selection, output layout, and
the six FILTER instructions (40_predictor.md). -/

namespace Sys2Proof.Machine

/-- FilterType: None 0, Sub 1, Up 2, Average 3, Paeth 4 (R93, R123 to R128). -/
inductive FilterType where
  | none
  | sub
  | up
  | avg
  | paeth
  deriving DecidableEq, Repr

/-- The FilterType number (R93). -/
def FilterType.number : FilterType → Nat
  | .none => 0
  | .sub => 1
  | .up => 2
  | .avg => 3
  | .paeth => 4

/-- How each row's type is chosen (R93): one type for every row, or the heuristic. -/
inductive FilterSel where
  | forced (t : FilterType)
  | auto
  deriving DecidableEq, Repr

/-- The FILTER instruction of a selection: FILTER.NONE, .SUB, .UP, .AVG, .PAETH or .AUTO (R93). -/
def filterInstr (sel : FilterSel) (bd ct : Nat) : Instr :=
  match sel with
  | .forced .none => .filterNone bd ct
  | .forced .sub => .filterSub bd ct
  | .forced .up => .filterUp bd ct
  | .forced .avg => .filterAvg bd ct
  | .forced .paeth => .filterPaeth bd ct
  | .auto => .filterAuto bd ct

/-- `R[x]` as a number in 0..255. -/
def byteAt (row : List Byte) (x : Nat) : Nat := (row.getD x 0#8).toNat

/-- `a(x)`: the byte `bpp` positions before in the same row, 0 where there is none (R121). -/
def leftOf (row : List Byte) (x : Nat) : Nat :=
  if Config.bpp ≤ x then byteAt row (x - Config.bpp) else 0

/-- `b(x)`: the byte at the same position of the previous raw row (R121). -/
def aboveOf (prev : List Byte) (x : Nat) : Nat := byteAt prev x

/-- `c(x)`: the byte `bpp` positions before in the previous raw row, 0 where there is none (R121). -/
def upperLeftOf (prev : List Byte) (x : Nat) : Nat :=
  if Config.bpp ≤ x then byteAt prev (x - Config.bpp) else 0

/-- The Paeth predictor in signed integers, every tie to the earlier of a, b, c (R127). -/
def paethOf (a b c : Nat) : Nat :=
  let p : Int := (a : Int) + (b : Int) - (c : Int)
  let pa := (p - (a : Int)).natAbs
  let pb := (p - (b : Int)).natAbs
  let pc := (p - (c : Int)).natAbs
  if pa ≤ pb ∧ pa ≤ pc then a else if pb ≤ pc then b else c

/-- The predictor of each type (R122): 0, a, b, floor((a+b)/2) on the exact sum, Paeth(a, b, c). -/
def predictorOf (t : FilterType) (row prev : List Byte) (x : Nat) : Nat :=
  match t with
  | .none => 0
  | .sub => leftOf row x
  | .up => aboveOf prev x
  | .avg => (leftOf row x + aboveOf prev x) / 2
  | .paeth => paethOf (leftOf row x) (aboveOf prev x) (upperLeftOf prev x)

/-- The difference `Dt(x)`, an exact integer (R122). -/
def differenceOf (t : FilterType) (row prev : List Byte) (x : Nat) : Int :=
  (byteAt row x : Int) - (predictorOf t row prev x : Int)

/-- The filtered byte `Ft(x) = Dt(x) mod 256` (R129). -/
def filteredByte (t : FilterType) (row prev : List Byte) (x : Nat) : Byte :=
  BitVec.ofInt 8 (differenceOf t row prev x)

/-- `cost_t`: the sum of the magnitudes of the pre-wrap differences (R130, C5). -/
def costOf (t : FilterType) (row prev : List Byte) : Nat :=
  ((List.range row.length).map fun x => (differenceOf t row prev x).natAbs).sum

/-- The four costs of a row; None has none (R130). -/
structure Costs where
  /-- cost_1. -/
  sub : Nat
  /-- cost_2. -/
  up : Nat
  /-- cost_3. -/
  avg : Nat
  /-- cost_4. -/
  paeth : Nat
  deriving DecidableEq, Repr

/-- The four costs of a row, computed in every selection mode (R133, R139). -/
def rowCosts (row prev : List Byte) : Costs :=
  { sub := costOf .sub row prev, up := costOf .up row prev,
    avg := costOf .avg row prev, paeth := costOf .paeth row prev }

/-- One comparison of `select` (R132): the later type wins only when strictly cheaper. -/
def keepCheaper (best : FilterType × Nat) (t : FilterType) (cost : Nat) : FilterType × Nat :=
  if cost < best.2 then (t, cost) else best

/-- `select(cost)` (R132): Sub, Up, Average, Paeth in that order, the strictly smallest sum. -/
def selectType (k : Costs) : FilterType :=
  (keepCheaper (keepCheaper (keepCheaper (.sub, k.sub) .up k.up) .avg k.avg) .paeth k.paeth).1

/-- The type of a row (R132, R133). -/
def chooseType (sel : FilterSel) (k : Costs) : FilterType :=
  match sel with
  | .forced t => t
  | .auto => selectType k

/-- The type FILTER uses for a row with previous raw row `prev`. -/
def rowType (sel : FilterSel) (row prev : List Byte) : FilterType := chooseType sel (rowCosts row prev)

/-- The filtered bytes of a row. -/
def filterRow (t : FilterType) (row prev : List Byte) : List Byte :=
  (List.range row.length).map fun x => filteredByte t row prev x

/-- The output of a row (R134): the filter-type byte, then the filtered bytes. -/
def encodeRow (sel : FilterSel) (row prev : List Byte) : List Byte :=
  BitVec.ofNat 8 (rowType sel row prev).number :: filterRow (rowType sel row prev) row prev

/-- The outputs of the rows below the raw row `prev`: the previous row of each is the raw row above it,
whatever filter that row used (R135). -/
def encodeRows (sel : FilterSel) : List Byte → List (List Byte) → List (List Byte)
  | _, [] => []
  | prev, row :: rest => encodeRow sel row prev :: encodeRows sel row rest

/-- "Row 0 has no 'previous row' (treated as all zeros)" (R120). -/
def zeroRow (bw : Nat) : List Byte := List.replicate bw 0#8

/-- `R_y` (R120). -/
def rawRow (m : Memory) (src bw y : Nat) : List Byte := m.readBytes (src + y * bw) bw

/-- `P_y`: the raw row above, zeros on row 0 (R120). -/
def prevRow (m : Memory) (src bw y : Nat) : List Byte :=
  match y with
  | 0 => zeroRow bw
  | k + 1 => rawRow m src bw k

/-- The raw rows of the PixelBuffer, top to bottom (R120). -/
def rawRows (m : Memory) (src bw h : Nat) : List (List Byte) :=
  (List.range h).map fun y => rawRow m src bw y

/-- The FilteredBuffer (R134): `(bw + 1) * h` bytes. -/
def filteredBuffer (sel : FilterSel) (m : Memory) (src bw h : Nat) : List Byte :=
  (encodeRows sel (zeroRow bw) (rawRows m src bw h)).flatten

/-- The result registers after a successful FILTER (R139): OUT_LEN, and the type and costs of row `H-1`. -/
def filterResults (sel : FilterSel) (s : State) : Results :=
  let bw := byteWidth s.lat
  let last := s.lat.height.toNat - 1
  let row := rawRow s.mem s.lat.srcAddr.toNat bw last
  let prev := prevRow s.mem s.lat.srcAddr.toNat bw last
  let k := rowCosts row prev
  { crcResult := s.results.crcResult
    outLen := BitVec.ofNat 32 (filterOutLen s.lat)
    lastFilter := BitVec.ofNat 3 (chooseType sel k).number
    costSub := BitVec.ofNat 32 k.sub
    costUp := BitVec.ofNat 32 k.up
    costAvg := BitVec.ofNat 32 k.avg
    costPaeth := BitVec.ofNat 32 k.paeth }

/-- The successful execution of FILTER (R138). -/
def filterDone (sel : FilterSel) (s : State) : State :=
  complete
    { s with
      mem := s.mem.writeBytes s.lat.dstAddr.toNat
        (filteredBuffer sel s.mem s.lat.srcAddr.toNat (byteWidth s.lat) s.lat.height.toNat)
      results := filterResults sel s }

/-- `exec FILTER` (R136 to R139). -/
def execFilter (sel : FilterSel) (bd ct : Nat) (s : State) : Host.Outcome State Fault Refusal :=
  runChecked (filterChecks bd ct s.lat) (sourceRange s.lat) (filterDestRange s.lat) (filterDone sel) s

/-- FILTER.NONE (R141). -/
def execFilterNone (bd ct : Nat) (s : State) : Host.Outcome State Fault Refusal :=
  execFilter (.forced .none) bd ct s

/-- FILTER.SUB (R142). -/
def execFilterSub (bd ct : Nat) (s : State) : Host.Outcome State Fault Refusal :=
  execFilter (.forced .sub) bd ct s

/-- FILTER.UP (R143). -/
def execFilterUp (bd ct : Nat) (s : State) : Host.Outcome State Fault Refusal :=
  execFilter (.forced .up) bd ct s

/-- FILTER.AVG (R144). -/
def execFilterAvg (bd ct : Nat) (s : State) : Host.Outcome State Fault Refusal :=
  execFilter (.forced .avg) bd ct s

/-- FILTER.PAETH (R145). -/
def execFilterPaeth (bd ct : Nat) (s : State) : Host.Outcome State Fault Refusal :=
  execFilter (.forced .paeth) bd ct s

/-- FILTER.AUTO (R140). -/
def execFilterAuto (bd ct : Nat) (s : State) : Host.Outcome State Fault Refusal :=
  execFilter .auto bd ct s

end Sys2Proof.Machine
end

