-- ==== Sys2Proof/Machine/Dispatch.lean ====
section
/-! DEFINITION. What each instruction does: one arm per constructor of `Instr`, one direct call of its
meaning (30_encoding.md R99). -/

namespace Sys2Proof.Machine

/-- The execution of a decoded command (R99). -/
def exec (i : Instr) (s : State) : Host.Outcome State Fault Refusal :=
  match i with
  | .nop => Sys2Proof.Machine.execNop s
  | .filterNone bd ct => Sys2Proof.Machine.execFilterNone bd ct s
  | .filterSub bd ct => Sys2Proof.Machine.execFilterSub bd ct s
  | .filterUp bd ct => Sys2Proof.Machine.execFilterUp bd ct s
  | .filterAvg bd ct => Sys2Proof.Machine.execFilterAvg bd ct s
  | .filterPaeth bd ct => Sys2Proof.Machine.execFilterPaeth bd ct s
  | .filterAuto bd ct => Sys2Proof.Machine.execFilterAuto bd ct s
  | .frame => Sys2Proof.Machine.execFrame s
  | .crc => Sys2Proof.Machine.execCrc s

end Sys2Proof.Machine
end

