-- ==== Sys2Proof/Machine/Engine.lean ====
section
/-! DEFINITION. The engine's turn: the execution step of the latched command (10_state.md R47, R48,
30_encoding.md R99). -/

namespace Sys2Proof.Machine

/-- The execution step (R47): decode lat.CMD, then the instruction, or the error of a reserved word
(R95, R96, R99). -/
def runLatched (s : State) : Host.Outcome State Fault Refusal :=
  match decode s.latCmd with
  | .ok i => exec i s
  | .error d => .next (raiseError (decodeErrCode d) s)

/-- The engine's turn: the execution step while BUSY, nothing while IDLE (R21, R216). -/
def engineTurn (s : State) : Host.Outcome State Fault Refusal :=
  if s.status.busy then runLatched s else .next s

end Sys2Proof.Machine
end

