-- ==== Sys2Proof/Machine/Registers.lean ====
section
/-! DEFINITION. The register map: offsets, and the one operation that reads and the one that writes the
registers (10_state.md R22 to R42). -/

namespace Sys2Proof.Machine

/-- The twenty registers, in the order of their offsets (10_state.md, register map). -/
inductive Reg where
  | id
  | config
  | ctrl
  | status
  | cmd
  | srcAddr
  | srcLen
  | dstAddr
  | dstCap
  | width
  | height
  | chunkType
  | crcSeed
  | crcResult
  | outLen
  | lastFilter
  | costSub
  | costUp
  | costAvg
  | costPaeth
  deriving DecidableEq, Repr

/-- The byte offset of a register in the window (10_state.md, register map). -/
def Reg.offset : Reg → BitVec 12
  | .id => 0x000#12
  | .config => 0x004#12
  | .ctrl => 0x008#12
  | .status => 0x00C#12
  | .cmd => 0x010#12
  | .srcAddr => 0x014#12
  | .srcLen => 0x018#12
  | .dstAddr => 0x01C#12
  | .dstCap => 0x020#12
  | .width => 0x024#12
  | .height => 0x028#12
  | .chunkType => 0x02C#12
  | .crcSeed => 0x030#12
  | .crcResult => 0x034#12
  | .outLen => 0x038#12
  | .lastFilter => 0x03C#12
  | .costSub => 0x040#12
  | .costUp => 0x044#12
  | .costAvg => 0x048#12
  | .costPaeth => 0x04C#12

/-- Every register once. -/
def Reg.all : List Reg :=
  [.id, .config, .ctrl, .status, .cmd, .srcAddr, .srcLen, .dstAddr, .dstCap, .width, .height, .chunkType,
    .crcSeed, .crcResult, .outLen, .lastFilter, .costSub, .costUp, .costAvg, .costPaeth]

/-- The register at an offset, if one stands there (R24). -/
def Reg.ofOffset (off : BitVec 12) : Option Reg := Reg.all.find? fun r => r.offset == off

/-- ID (R25): "P", "N", "G" and the version, 1. -/
def idValue : Word := 0x504E4701#32

/-- CONFIG (R26): LOG2_MAX_WIDTH in [4:0], BPP in [11:8], every other bit 0. -/
def configValue : Word := BitVec.ofNat 32 (Config.log2MaxWidth + 256 * Config.bpp)

/-- CTRL (R27): IRQ_EN in bit 0, reserved bits 0. -/
def ctrlWord (s : State) : Word := BitVec.ofNat 32 s.irqEn.toNat

/-- What a register reads as (R25 to R42). CMD reads 0 (R30). -/
def readReg (s : State) : Reg → Word
  | .id => idValue
  | .config => configValue
  | .ctrl => ctrlWord s
  | .status => s.status.word
  | .cmd => 0#32
  | .srcAddr => s.params.srcAddr
  | .srcLen => s.params.srcLen
  | .dstAddr => s.params.dstAddr
  | .dstCap => s.params.dstCap
  | .width => s.params.width
  | .height => s.params.height
  | .chunkType => s.params.chunkType
  | .crcSeed => s.params.crcSeed
  | .crcResult => s.results.crcResult
  | .outLen => s.results.outLen
  | .lastFilter => s.results.lastFilter.zeroExtend 32
  | .costSub => s.results.costSub
  | .costUp => s.results.costUp
  | .costAvg => s.results.costAvg
  | .costPaeth => s.results.costPaeth

/-- A write to CMD: accepted while IDLE (R44), dropped while BUSY (R46). -/
def writeCmd (w : Word) (s : State) : State :=
  if s.status.busy then { s with status := s.status.dropped } else accept w s

/-- A write to a register (R24, R27, R29, R30 to R38, R49). A write to a read-only register is ignored. -/
def writeReg (r : Reg) (v : Word) (s : State) : State :=
  match r with
  | .id => s
  | .config => s
  | .ctrl => { s with irqEn := v.getLsbD 0 }
  | .status => acknowledge v s
  | .cmd => writeCmd v s
  | .srcAddr => { s with params := { s.params with srcAddr := v } }
  | .srcLen => { s with params := { s.params with srcLen := v } }
  | .dstAddr => { s with params := { s.params with dstAddr := v } }
  | .dstCap => { s with params := { s.params with dstCap := v } }
  | .width => { s with params := { s.params with width := v } }
  | .height => { s with params := { s.params with height := v } }
  | .chunkType => { s with params := { s.params with chunkType := v } }
  | .crcSeed => { s with params := { s.params with crcSeed := v } }
  | .crcResult => s
  | .outLen => s
  | .lastFilter => s
  | .costSub => s
  | .costUp => s
  | .costAvg => s
  | .costPaeth => s

/-- `RegRead(off)` at an aligned offset (R22): 0 where no register stands (R24). -/
def regRead (s : State) (off : BitVec 12) : Word :=
  match Reg.ofOffset off with
  | some r => readReg s r
  | none => 0#32

/-- `RegWrite(off, v)` at an aligned offset (R22): ignored where no register stands (R24). -/
def regWrite (off : BitVec 12) (v : Word) (s : State) : State :=
  match Reg.ofOffset off with
  | some r => writeReg r v s
  | none => s

end Sys2Proof.Machine
end

