-- ==== Sys2Proof/Machine/Bus.lean ====
section
/-! DEFINITION. What the world outside the block does: the host's register accesses (R22 to R24), its
memory accesses under the hazard rule (R245), its wait (R100), and the events of the schedule (R251). -/

namespace Sys2Proof.Machine

/-- A naturally aligned 32-bit access (R23). -/
def alignedWord (off : BitVec 12) (size : AccessSize) : Bool :=
  decide (size = .word) && decide (off.toNat % 4 = 0)

/-- A STATUS read that shows the completion, BUSY = 0 and DONE = 1 (R71). -/
def showsCompletion (off : BitVec 12) (s : State) : Bool :=
  decide (off = Reg.status.offset) && !s.status.busy && s.status.done

/-- An aligned register read: no side effect on any state of the block (R22). The reply goes to the host,
and a read that shows the completion gives the buffers back to it (R71, log 10). -/
def hostReadWord (off : BitVec 12) (s : State) : State :=
  { s with
    replies := .reg off (regRead s off) :: s.replies
    holds := if showsCompletion off s then [] else s.holds }

/-- A host read of the window (R22, R23). -/
def hostRegRead (off : BitVec 12) (size : AccessSize) (s : State) : Host.Outcome State Fault Refusal :=
  if alignedWord off size then .next (hostReadWord off s) else .fault .hostAccess

/-- A host write of the window (R22, R23). -/
def hostRegWrite (off : BitVec 12) (size : AccessSize) (v : Word) (s : State) :
    Host.Outcome State Fault Refusal :=
  if alignedWord off size then .next (regWrite off v s) else .fault .hostAccess

/-- A host read of the byte breaks the hazard rule: it is in a write range handed over (R245). DESIGN CHOICE
(log 10): also where it is in the read range as well, which R245 and U5 let the host read (an in-place FRAME's
payload, R169, or a word whose overlap check will fail). -/
def readHazard (a : Nat) (s : State) : Bool := s.holds.any fun h => h.writes.has a

/-- A host write of the byte breaks the hazard rule: it is in a range handed over (R245). -/
def writeHazard (a : Nat) (s : State) : Bool := s.holds.any fun h => h.reads.has a || h.writes.has a

/-- One byte. -/
def oneByte (a : Nat) : AddrRange := { base := a, len := 1 }

/-- The platform's say over a host access to one byte of memory (log 12): the register window takes no
byte access (R23); a device is outside the block; the hazard rule (R245). -/
def guardHostByte (a : Nat) (hazard : Bool) (effect : State → State) (s : State) :
    Host.Outcome State Fault Refusal :=
  if s.platform.window.has a then .fault .hostAccess
  else if s.platform.meetsKind .device (oneByte a) then .refused .hostDevice
  else if s.platform.meetsKind .absent (oneByte a) || s.platform.meetsKind .busError (oneByte a) then
    .fault .hostUnmapped
  else if hazard then .fault .hazard
  else .next (effect s)

/-- The byte read goes to the host. -/
def hostReadByte (a : Word) (s : State) : State :=
  { s with replies := .mem a (s.mem.read a.toNat) :: s.replies }

/-- The byte is stored. -/
def hostStoreByte (a : Word) (v : Byte) (s : State) : State := { s with mem := s.mem.write a.toNat v }

/-- A host read of one byte of memory. -/
def hostMemRead (a : Word) (s : State) : Host.Outcome State Fault Refusal :=
  guardHostByte a.toNat (readHazard a.toNat s) (hostReadByte a) s

/-- A host write of one byte of memory. -/
def hostMemWrite (a : Word) (v : Byte) (s : State) : Host.Outcome State Fault Refusal :=
  guardHostByte a.toNat (writeHazard a.toNat s) (hostStoreByte a v) s

/-- The `wait` statement (R100) at the head of a schedule whose tail is in `s`. While BUSY its polls change
nothing and the engine gets its turn, the wait still to come (weak fairness, R251, log 2); while IDLE its
last poll is one STATUS read. -/
def hostWait (s : State) : Host.Outcome State Fault Refusal :=
  if s.status.busy then engineTurn { s with schedule := .wait :: s.schedule }
  else .next (hostReadWord Reg.status.offset s)

/-- One event, taken off the schedule of `s` before. -/
def runEvent (e : Event) (s : State) : Host.Outcome State Fault Refusal :=
  match e with
  | .engine => engineTurn s
  | .regRead off size => hostRegRead off size s
  | .regWrite off size v => hostRegWrite off size v s
  | .memRead a => hostMemRead a s
  | .memWrite a v => hostMemWrite a v s
  | .wait => hostWait s
  | .reset => .next (resetInput s)

/-- The next turn (R251): the schedule's next event; when none is left, the engine's, so that every
accepted command completes (log 2). -/
def nextTurn (s : State) : Host.Outcome State Fault Refusal :=
  match s.schedule with
  | [] => engineTurn s
  | e :: rest => runEvent e { s with schedule := rest }

/-- The command word `w` accepted, and the engine's turn next (R44, R47; log 3). -/
def acceptNow (w : Word) (s : State) : State :=
  { accept w s with schedule := .engine :: s.schedule }

end Sys2Proof.Machine
end

