-- ==== Sys2Proof/Machine/Step.lean ====
section
/-! DEFINITION. One step of the machine, and the placing of a command word for it. -/

namespace Sys2Proof.Machine

/-- One step: the next turn of the schedule (R251). -/
def step (s : State) : Host.Outcome State Fault Refusal := nextTurn s

/-- `s` with the command word of `nbits` bits accepted and the engine's turn next, so that the next step
runs it (log 3). The block has no memory it fetches from (R75): a command word arrives at acceptance,
which also latches the parameter registers (R44, R45). -/
def State.withFetchWord (s : State) (nbits w : Nat) : State :=
  acceptNow (BitVec.ofNat 32 (w % 2 ^ nbits)) s

end Sys2Proof.Machine
end

