-- ==== Sys2Proof/Machine/Program.lean ====
section
/-! DEFINITION. The host program notation and its macros, as the events they expand to
(30_encoding.md R100, R101), and running them. -/

namespace Sys2Proof.Machine

/-- `wr NAME, v` (R100). -/
def wr (r : Reg) (v : Word) : Event := .regWrite r.offset .word v

/-- `rd NAME -> t` (R100); `t` is the newest reply. -/
def rd (r : Reg) : Event := .regRead r.offset .word

/-- `cmd MNEMONIC` (R100). -/
def cmd (i : Instr) : Event := wr .cmd (encode i)

/-- `w1c v` (R100). -/
def w1c (v : Word) : Event := wr .status v

/-- `mem a: b0 b1 ...` (R100): host stores of the listed bytes. DESIGN CHOICE (log 23): the bytes past address
0xFFFFFFFF go on at address 0. -/
def memAt : Word → List Byte → List Event
  | _, [] => []
  | a, b :: rest => .memWrite a b :: memAt (a + 1#32) rest

/-- The FILTER instruction of a MODE, with the notation's defaults bd=8, ct=6 (R100). -/
def filterMode (sel : FilterSel) : Instr := filterInstr sel 8 6

/-- `filter MODE, src, w, h, dst, cap` (R101). -/
def filterMacro (mode : FilterSel) (src w h dst cap : Word) : List Event :=
  [wr .srcAddr src, wr .srcLen (w * h * 4#32), wr .dstAddr dst, wr .dstCap cap, wr .width w, wr .height h,
    cmd (filterMode mode), .wait]

/-- `frame TAG, src, len, dst, cap` (R101). -/
def frameMacro (tag src len dst cap : Word) : List Event :=
  [wr .chunkType tag, wr .srcAddr src, wr .srcLen len, wr .dstAddr dst, wr .dstCap cap, cmd .frame, .wait]

/-- `crc seed, src, len` (R101). -/
def crcMacro (seed src len : Word) : List Event :=
  [wr .crcSeed seed, wr .srcAddr src, wr .srcLen len, cmd .crc, .wait]

/-- `nop` (R101). -/
def nopMacro : List Event := [cmd .nop, .wait]

/-- The machine after `n` steps from `s`, while every step answers a next state. -/
def runFrom (n : Nat) (s : State) : Host.Outcome State Fault Refusal :=
  Host.Core.run { State := State, Fault := Fault, Refusal := Refusal, step := step, reset := State.reset } n s

/-- The state after a host program that ends in a `wait`, with no other event between its statements. A
statement takes one step, a `wait` at most two (the completion and the last poll), and the block, then IDLE,
stays as it is in the steps left over. -/
def runProgram (es : List Event) (s : State) : Host.Outcome State Fault Refusal :=
  runFrom (2 * es.length) { s with schedule := es }

end Sys2Proof.Machine
end

