-- ==== Sys2Proof/Machine/Encoder.lean ====
section
/-! DEFINITION. The encoder the host runs around the block (60_exceptions.md R222 to R228): the bytes of the
PNG, the compressor's options, and the encode call as host programs run on the machine. The block enforces
none of it (00_scope.md section 3); the compressor is the host's and is an argument (U14, U15). -/

namespace Sys2Proof.Machine

/-- The 8-byte PNG signature (R222). -/
def pngSignature : List Byte := [0x89#8, 0x50#8, 0x4E#8, 0x47#8, 0x0D#8, 0x0A#8, 0x1A#8, 0x0A#8]

/-- CHUNK_TYPE of IHDR (R37). -/
def tagIHDR : Word := 0x49484452#32

/-- CHUNK_TYPE of IDAT (R37). -/
def tagIDAT : Word := 0x49444154#32

/-- CHUNK_TYPE of IEND (R37). -/
def tagIEND : Word := 0x49454E44#32

/-- The 13-byte IHDR payload (R223): width, height, bit depth 8, colour type 6, and three zero bytes. -/
def ihdrPayload (w h : Word) : List Byte := be32 w ++ be32 h ++ [8#8, 6#8, 0#8, 0#8, 0#8]

/-- The whole PNG around the compressed bytes (R224, R225, R227): IHDR first, one IDAT, IEND last and
empty. -/
def pngBytes (w h : Word) (compressed : List Byte) : List Byte :=
  pngSignature ++ chunkBytes tagIHDR (ihdrPayload w h) ++ chunkBytes tagIDAT compressed
    ++ chunkBytes tagIEND []

/-- The compressor's options (R226). -/
structure CompressorOptions where
  /-- 0 to 9. -/
  level : Nat
  /-- 8 to 15, or negative for raw mode. -/
  windowBits : Int
  /-- A power of two in 256 to 32768. -/
  chunkSize : Nat
  /-- 0 to 4. -/
  strategy : Nat
  deriving DecidableEq, Repr

/-- The caller's overrides, each field on its own (R226). -/
structure CompressorOverrides where
  /-- Overrides `level`. -/
  level : Option Nat
  /-- Overrides `windowBits`. -/
  windowBits : Option Int
  /-- Overrides `chunkSize`. -/
  chunkSize : Option Nat
  /-- Overrides `strategy`. -/
  strategy : Option Nat
  deriving DecidableEq, Repr

/-- The encoder's defaults (R226); CPC gives no default level, so it is an argument (U14). -/
def defaultOptions (level : Nat) : CompressorOptions :=
  { level := level, windowBits := 15, chunkSize := 32768, strategy := 3 }

/-- "Caller overrides take precedence over defaults field-by-field" (R226). -/
def mergeOptions (d : CompressorOptions) (o : CompressorOverrides) : CompressorOptions :=
  { level := o.level.getD d.level, windowBits := o.windowBits.getD d.windowBits,
    chunkSize := o.chunkSize.getD d.chunkSize, strategy := o.strategy.getD d.strategy }

/-- The PNG of a successful encode call over the pixels at `src`, without the machine (R222 to R227): FILTER.AUTO
over the whole buffer, the compressor, the three chunks. -/
def encodedPng {ε : Type} (compress : CompressorOptions → List Byte → Except ε (List Byte))
    (o : CompressorOptions) (m : Memory) (src : Nat) (w h : Word) : Except ε (List Byte) :=
  (compress o (filteredBuffer .auto m src (Config.bpp * w.toNat) h.toNat)).map (pngBytes w h)

/-- Where the host keeps what an encode call needs. -/
structure EncodeBuffers where
  /-- Image width in pixels. -/
  width : Word
  /-- Image height in rows. -/
  height : Word
  /-- The address of the PixelBuffer. -/
  pixels : Word
  /-- Where the host writes the 13 bytes of the IHDR payload. -/
  ihdr : Word
  /-- Where FILTER writes the FilteredBuffer. -/
  filtered : Word
  /-- The bytes reserved there. -/
  filteredCap : Word
  /-- Where the PNG is built. -/
  png : Word
  deriving DecidableEq, Repr

/-- Why an encode call returns no PNG (R228): the condition reported to the caller. -/
inductive EncodeError (ε : Type) where
  /-- Width or height is 0; nothing is built. -/
  | zeroDimensions
  /-- The host has no buffers for the call: one leaves the address space, or two that must not meet do. -/
  | noBuffers
  /-- A command of the sequence completed with ERR and this ERRCODE. -/
  | command (errcode : BitVec 4)
  /-- The compressor's failure, unchanged. -/
  | compressor (e : ε)
  deriving DecidableEq, Repr

/-- The state after an encode call and what it returns, or the stop of one of its steps. -/
abbrev EncodeOutcome (ε : Type) := Host.Outcome (State × Except (EncodeError ε) (List Byte)) Fault Refusal

/-- The bytes of a PNG before its IDAT chunk: signature and IHDR chunk (R222, R223). -/
def pngHeaderLen : Nat := 8 + (13 + 12)

/-- The length of a PNG without its compressed bytes, `8 + (13+12) + 12 + 12` (R227). -/
def pngOverhead : Nat := pngHeaderLen + 12 + 12

/-- The buffers can hold the call: PNG overhead and IHDR payload lie in the address space; what is written
before FILTER has read the pixels does not meet them; FILTER's output does not meet the PNG's header; and the
IHDR payload does not meet the signature. What the block checks itself is left to its checks. -/
def EncodeBuffers.usable (b : EncodeBuffers) : Bool :=
  decide (b.png.toNat + pngOverhead ≤ Config.addressSpace)
    && decide (b.ihdr.toNat + 13 ≤ Config.addressSpace)
    && !overlap b.pixels.toNat (b.width * b.height * 4#32).toNat b.png.toNat pngHeaderLen
    && !overlap b.pixels.toNat (b.width * b.height * 4#32).toNat b.ihdr.toNat 13
    && !overlap b.filtered.toNat b.filteredCap.toNat b.png.toNat pngHeaderLen
    && !overlap b.ihdr.toNat 13 b.png.toNat 8

/-- The signature and the IHDR chunk (R222, R223), once the block is IDLE (R247). -/
def ihdrProgram (b : EncodeBuffers) : List Event :=
  [.wait] ++ memAt b.png pngSignature ++ memAt b.ihdr (ihdrPayload b.width b.height)
    ++ frameMacro tagIHDR b.ihdr 13#32 (b.png + 8#32) 25#32

/-- FILTER.AUTO over the whole pixel buffer (R224). -/
def filterProgram (b : EncodeBuffers) : List Event :=
  filterMacro .auto b.pixels b.width b.height b.filtered b.filteredCap

/-- The compressed bytes written into the IDAT payload slot, and framed in place (R224, R227, R169). -/
def idatProgram (b : EncodeBuffers) (z : List Byte) : List Event :=
  let chunk := b.png + BitVec.ofNat 32 pngHeaderLen
  let len := BitVec.ofNat 32 z.length
  memAt (chunk + 8#32) z ++ frameMacro tagIDAT (chunk + 8#32) len chunk (len + 12#32)

/-- The empty IEND chunk after the `n` compressed bytes (R225). -/
def iendProgram (b : EncodeBuffers) (n : Nat) : List Event :=
  frameMacro tagIEND b.png 0#32 (b.png + BitVec.ofNat 32 (pngHeaderLen + n + 12)) 12#32

/-- One host program that ends with a command's `wait`: on ERR the call ends with no PNG, otherwise it goes on
(R221, R228). -/
def thenUnlessErr {ε : Type} (es : List Event) (k : State → EncodeOutcome ε) (s : State) : EncodeOutcome ε :=
  match runProgram es s with
  | .next t => if t.status.err then .next (t, .error (.command t.status.errcode)) else k t
  | .fault f => .fault f
  | .refused r => .refused r

/-- The IDAT and the IEND chunk around the compressed bytes, and the PNG read back from its buffer (R224, R225,
R227). -/
def frameCompressed {ε : Type} (b : EncodeBuffers) (z : List Byte) (s : State) : EncodeOutcome ε :=
  if Config.addressSpace < b.png.toNat + (z.length + pngOverhead) then .next (s, .error .noBuffers)
  else
    thenUnlessErr (idatProgram b z)
      (thenUnlessErr (iendProgram b z.length) fun t =>
        .next (t, .ok (t.mem.readBytes b.png.toNat (z.length + pngOverhead)))) s

/-- The host's compressor over the FilteredBuffer, OUT_LEN bytes at DST_ADDR (R224), whose failure is surfaced
unchanged (R228). -/
def compressAndFrame {ε : Type} (compress : CompressorOptions → List Byte → Except ε (List Byte))
    (o : CompressorOptions) (b : EncodeBuffers) (s : State) : EncodeOutcome ε :=
  match compress o (s.mem.readBytes b.filtered.toNat s.results.outLen.toNat) with
  | .ok z => frameCompressed b z s
  | .error e => .next (s, .error (.compressor e))

/-- The host's encode call on the machine (R222 to R228, log 20): IHDR, FILTER.AUTO, the compressor, IDAT, IEND,
each command the block's own. The first that completes with ERR ends the call, so does the compressor's failure,
and a zero width or height ends it before anything is built: a whole PNG or none. -/
def encodeImage {ε : Type} (compress : CompressorOptions → List Byte → Except ε (List Byte))
    (o : CompressorOptions) (b : EncodeBuffers) (s : State) : EncodeOutcome ε :=
  if b.width = 0#32 ∨ b.height = 0#32 then .next (s, .error .zeroDimensions)
  else if b.usable = false then .next (s, .error .noBuffers)
  else thenUnlessErr (ihdrProgram b) (thenUnlessErr (filterProgram b) (compressAndFrame compress o b)) s

end Sys2Proof.Machine
end

