-- ==== Sys2Proof/Safety.lean ====
section
/-! DEFINITION. The terms claims use: when a command executes normally, what counts as normal memory, the
invariant of the machine, and the decoder's side of the filters (R146). -/

namespace Sys2Proof.Machine

/-- Every address of the range is normal memory on this platform (R66, R205). -/
def Platform.normal (pl : Platform) (r : AddrRange) : Bool :=
  !pl.meetsDevice r && !pl.meetsKind .absent r && !pl.meetsKind .busError r

/-- Both ranges of a command are normal memory. -/
def commandMemoryNormal (i : Instr) (s : State) : Bool :=
  s.platform.normal (readRange i s.lat) && s.platform.normal (writeRange i s.lat)

/-- The addresses `s .. s+ls-1` and `d .. d+ld-1` have none in common. -/
def rangesApart (s ls d ld : Nat) : Prop := ∀ a, ¬ ((s ≤ a ∧ a < s + ls) ∧ (d ≤ a ∧ a < d + ld))

/-- The latched operands pass every check of FILTER (R137), in exact arithmetic. -/
structure FilterOperandsValid (p : Params) : Prop where
  /-- At least one pixel. -/
  width_pos : 0 < p.width.toNat
  /-- At most MAX_WIDTH pixels. -/
  width_le : p.width.toNat ≤ 2 ^ 22
  /-- At least one row. -/
  height_pos : 0 < p.height.toNat
  /-- SRC_LEN = WIDTH * HEIGHT * 4. -/
  length_eq : p.srcLen.toNat = 4 * p.width.toNat * p.height.toNat
  /-- The output fits DST_CAP. -/
  capacity : (4 * p.width.toNat + 1) * p.height.toNat ≤ p.dstCap.toNat
  /-- The read range ends by 2^32. -/
  source_end : p.srcAddr.toNat + p.srcLen.toNat ≤ 2 ^ 32
  /-- The write range ends by 2^32. -/
  dest_end : p.dstAddr.toNat + (4 * p.width.toNat + 1) * p.height.toNat ≤ 2 ^ 32
  /-- The ranges do not intersect. -/
  apart : rangesApart p.srcAddr.toNat p.srcLen.toNat p.dstAddr.toNat ((4 * p.width.toNat + 1) * p.height.toNat)

/-- The latched operands pass every check of FRAME (R168, R169). -/
structure FrameOperandsValid (p : Params) : Prop where
  /-- The chunk fits DST_CAP. -/
  capacity : p.srcLen.toNat + 12 ≤ p.dstCap.toNat
  /-- The read range ends by 2^32. -/
  source_end : p.srcAddr.toNat + p.srcLen.toNat ≤ 2 ^ 32
  /-- The write range ends by 2^32. -/
  dest_end : p.dstAddr.toNat + (p.srcLen.toNat + 12) ≤ 2 ^ 32
  /-- The ranges do not intersect, or the payload stands in place. -/
  apart : p.srcAddr.toNat = p.dstAddr.toNat + 8 ∨
    rangesApart p.srcAddr.toNat p.srcLen.toNat p.dstAddr.toNat (p.srcLen.toNat + 12)

/-- The latched operands pass the check of CRC (R173). -/
def CrcOperandsValid (p : Params) : Prop := p.srcAddr.toNat + p.srcLen.toNat ≤ 2 ^ 32

/-- The latched operands pass every check of the command: it will access memory (NOP: none). -/
def commandOperandsValid (i : Instr) (p : Params) : Prop :=
  match i with
  | .nop => True
  | .filterNone bd ct => (bd = 8 ∧ ct = 6) ∧ FilterOperandsValid p
  | .filterSub bd ct => (bd = 8 ∧ ct = 6) ∧ FilterOperandsValid p
  | .filterUp bd ct => (bd = 8 ∧ ct = 6) ∧ FilterOperandsValid p
  | .filterAvg bd ct => (bd = 8 ∧ ct = 6) ∧ FilterOperandsValid p
  | .filterPaeth bd ct => (bd = 8 ∧ ct = 6) ∧ FilterOperandsValid p
  | .filterAuto bd ct => (bd = 8 ∧ ct = 6) ∧ FilterOperandsValid p
  | .frame => FrameOperandsValid p
  | .crc => CrcOperandsValid p

/-- The host's `RegWrite(0x010, w)` (R30). -/
def cmdWrite (w : Word) : Event := .regWrite 0x010#12 .word w

/-- Two memories hold the same bytes in a range. -/
def sameBytes (r : AddrRange) (m m' : Memory) : Prop := ∀ a, r.has a = true → m.read a = m'.read a

/-- STATUS never shows what the rules exclude: while BUSY neither DONE nor ERR (R44), ERRCODE 0 whenever
ERR = 0 (R28), a code 1 to 9 whenever ERR = 1 (R200). -/
def Status.wf (st : Status) : Bool :=
  (!st.busy || (!st.done && !st.err)) && (st.err || decide (st.errcode = 0#4))
    && (!st.err || (decide (st.errcode ≠ 0#4) && decide (st.errcode.toNat ≤ 9)))

/-- LAST_FILTER is a FilterType number (R41), and no cost exceeds 255 * 2^24 (R42). -/
def Results.wf (r : Results) : Bool :=
  decide (r.lastFilter.toNat ≤ 4) && decide (r.costSub.toNat ≤ 255 * 2 ^ 24)
    && decide (r.costUp.toNat ≤ 255 * 2 ^ 24) && decide (r.costAvg.toNat ≤ 255 * 2 ^ 24)
    && decide (r.costPaeth.toNat ≤ 255 * 2 ^ 24)

/-- The buffers of the command in progress are among those handed over (R245). -/
def holdsLatched (s : State) : Bool :=
  !s.status.busy ||
    s.holds.contains { reads := wordReads s.latCmd s.lat, writes := wordWrites s.latCmd s.lat }

/-- The machine's invariant: memory in canonical form, STATUS and the result registers within their rules,
and the command in progress owning its buffers. -/
structure Inv (s : State) : Prop where
  mem : s.mem.wf = true
  status : s.status.wf = true
  results : s.results.wf = true
  holds : holdsLatched s = true

/-- The block's own state is untouched: registers, latches, memory. What the world outside holds (the
schedule, the replies, the buffers handed over) may differ. -/
structure SameBlock (s t : State) : Prop where
  irqEn : t.irqEn = s.irqEn
  status : t.status = s.status
  params : t.params = s.params
  results : t.results = s.results
  latCmd : t.latCmd = s.latCmd
  lat : t.lat = s.lat
  mem : t.mem = s.mem
  platform : t.platform = s.platform

/-- The inverse of a filter on one row (R146): `R(x) = (Ft(x) + pred_t(x)) mod 256` for x increasing, the
predictor on the bytes already recovered. -/
def recoverRow (t : FilterType) (prev filtered : List Byte) : List Byte :=
  (List.range filtered.length).foldl
    (fun row x => row ++ [filtered.getD x 0#8 + BitVec.ofNat 8 (predictorOf t row prev x)]) []

/-- The FilterType of a number; a number above 4 names none. -/
def FilterType.ofNumber : Nat → FilterType
  | 0 => .none
  | 1 => .sub
  | 2 => .up
  | 3 => .avg
  | 4 => .paeth
  | _ => .none

/-- The inverse of FILTER on an image given as rows of the FilteredBuffer (R146): rows in increasing order,
each under the raw row recovered before it. -/
def recoverRows : List Byte → List (List Byte) → List (List Byte)
  | _, [] => []
  | _, [] :: _ => []
  | prev, (t :: filtered) :: rest =>
    let row := recoverRow (FilterType.ofNumber t.toNat) prev filtered
    row :: recoverRows row rest

end Sys2Proof.Machine
end

