-- ==== Sys2Proof/Certificates/Slice0/Obligations.lean ====
section
/-! DEFINITION. The statements for the provers. Each docstring names the rules of spec/ it formalises. -/

open Sys2Proof Sys2Proof.Machine

/-! ## Reset, decoding, the step -/

/-- R52 (register map): after reset an aligned read gives ID and CONFIG their constants and 0 everywhere
else; the block is IDLE and the interrupt output is low. The latches are unspecified, so nothing is said
of them. -/
def Obligations.ResetRegisterValues : Prop :=
  (∀ off : BitVec 12, off.toNat % 4 = 0 →
    regRead State.reset off =
      if off = 0x000#12 then 0x504E4701#32 else if off = 0x004#12 then 0x00000416#32 else 0#32) ∧
  State.reset.status.busy = false ∧ irq State.reset = false

/-- The machine's invariant holds at reset. -/
def Obligations.ResetMeetsInvariant : Prop := Inv State.reset

/-- 30_encoding.md section 4 and R95, R96: words of the opcode map and its neighbours, decoded. -/
def Obligations.OpcodeMapWordsDecode : Prop :=
  decode 0x00000000#32 = .ok .nop ∧
  decode 0x00060801#32 = .ok (.filterNone 8 6) ∧
  decode 0x00060811#32 = .ok (.filterSub 8 6) ∧
  decode 0x00060821#32 = .ok (.filterUp 8 6) ∧
  decode 0x00060831#32 = .ok (.filterAvg 8 6) ∧
  decode 0x00060841#32 = .ok (.filterPaeth 8 6) ∧
  decode 0x00060871#32 = .ok (.filterAuto 8 6) ∧
  decode 0x00021071#32 = .ok (.filterAuto 16 2) ∧
  decode 0x00000002#32 = .ok .frame ∧
  decode 0x00000003#32 = .ok .crc ∧
  decode 0x00060851#32 = .error .reservedField ∧
  decode 0x000608F1#32 = .error .reservedField ∧
  decode 0x01060871#32 = .error .reservedField ∧
  decode 0x00000012#32 = .error .reservedField ∧
  decode 0xFFFFFFF4#32 = .error .reservedOpcode

/-- R47, R99, R251: a step of a BUSY block runs the latched command. With no event left, at the engine's
event (taken off the schedule), and while the host waits, the step is `exec` of the decoded instruction; a
reserved word completes with its error. An IDLE block stays as it is with no event left and at the engine's
event (R21, R216), and a wait is then one STATUS read (R100), which gives the buffers back when it shows the
completion (log 10). The schedule, and the engine's turn when it is used up and while the host waits, are the
model's form of R251 (logs 1 and 2). -/
def Obligations.StepRunsLatchedCommand : Prop :=
  ∀ s : State,
    (∀ i, s.status.busy = true → decode s.latCmd = .ok i →
      (s.schedule = [] → step s = exec i s) ∧
      (∀ rest, s.schedule = .engine :: rest → step s = exec i { s with schedule := rest }) ∧
      (∀ rest, s.schedule = .wait :: rest → step s = exec i s)) ∧
    (∀ d, s.status.busy = true → decode s.latCmd = .error d →
      (s.schedule = [] → step s = .next (raiseError (decodeErrCode d) s)) ∧
      (∀ rest, s.schedule = .engine :: rest →
        step s = .next (raiseError (decodeErrCode d) { s with schedule := rest })) ∧
      (∀ rest, s.schedule = .wait :: rest → step s = .next (raiseError (decodeErrCode d) s))) ∧
    (s.status.busy = false →
      (s.schedule = [] → step s = .next s) ∧
      (∀ rest, s.schedule = .engine :: rest → step s = .next { s with schedule := rest }) ∧
      (∀ rest, s.schedule = .wait :: rest →
        step s = .next
          { s with
            replies := .reg 0x00C#12 (regRead s 0x00C#12) :: s.replies
            holds := if s.status.done then [] else s.holds
            schedule := rest }))

/-- R44, R47: the word of a well-formed instruction, placed for the next step, is accepted and run as that
instruction. `withFetchWord` is the model's own way to place a word (log 3). -/
def Obligations.PlacedWordRunsItsInstruction : Prop :=
  ∀ (s : State) (i : Instr), WellFormed i = true →
    step (s.withFetchWord 32 (encode i).toNat) = exec i (accept (encode i) s)

/-- R90 to R94: decoding the word of a well-formed instruction gives the instruction back, for every value
of every field. -/
def Obligations.DecodeOfEncode : Prop := ∀ i : Instr, WellFormed i = true → decode (encode i) = .ok i

/-- R99: a word that decodes is the word of the instruction it decodes to, which is well formed. No two
words decode to one instruction. -/
def Obligations.EncodeOfDecode : Prop :=
  ∀ (w : Word) (i : Instr), decode w = .ok i → encode i = w ∧ WellFormed i = true

/-- 30_encoding.md section 4: "A word w is instruction X when (w AND mask) == match"; BD and CT are bits
[15:8] and [23:16], so two instructions of one row differ only there. -/
def Obligations.DecodeAgreesWithOpcodeMap : Prop :=
  (∀ (w : Word) (i : Instr), decode w = .ok i → w &&& tableMask i = tableMatch i) ∧
  (∀ (w : Word) (i : Instr), w &&& tableMask i = tableMatch i →
    ∃ j, decode w = .ok j ∧ tableMatch j = tableMatch i ∧ tableMask j = tableMask i)

/-- R95, R96, R99: exactly which words are rejected, and with which error; the opcode is looked at first. -/
def Obligations.DecodeErrorsExactly : Prop :=
  ∀ w : Word,
    (decode w = .error .reservedOpcode ↔ 4 ≤ w.toNat % 16) ∧
    (decode w = .error .reservedField ↔
      (w.toNat % 16 = 0 ∨ w.toNat % 16 = 2 ∨ w.toNat % 16 = 3) ∧ w.toNat / 16 ≠ 0 ∨
      w.toNat % 16 = 1 ∧
        (w.toNat / 2 ^ 24 ≠ 0 ∨ w.toNat / 128 % 2 = 1 ∨ w.toNat / 16 % 8 = 5 ∨ w.toNat / 16 % 8 = 6))

/-- R95: a word with OP in 4..15 is accepted and completes with ERR_OPCODE (code 1), touching no memory and
no result register. -/
def Obligations.ReservedOpcodeCompletes : Prop :=
  ∀ (s : State) (w : Word), s.status.busy = false → s.schedule = [cmdWrite w] → 4 ≤ w.toNat % 16 →
    ∃ t u, step s = .next t ∧ t.status.busy = true ∧ t.latCmd = w ∧ step t = .next u ∧
      u.status = { busy := false, done := true, err := true, ovr := s.status.ovr, errcode := 1#4 } ∧
      u.mem = s.mem ∧ u.results = s.results

/-- R96: a set reserved bit, or FSEL 5 or 6, under a valid OP completes with ERR_FIELD (code 2), touching no
memory and no result register; only the word 0 is a NOP. -/
def Obligations.ReservedFieldCompletes : Prop :=
  (∀ (s : State) (w : Word), s.status.busy = false → s.schedule = [cmdWrite w] →
    ((w.toNat % 16 = 0 ∨ w.toNat % 16 = 2 ∨ w.toNat % 16 = 3) ∧ w.toNat / 16 ≠ 0 ∨
      w.toNat % 16 = 1 ∧
        (w.toNat / 2 ^ 24 ≠ 0 ∨ w.toNat / 128 % 2 = 1 ∨ w.toNat / 16 % 8 = 5 ∨ w.toNat / 16 % 8 = 6)) →
    ∃ t u, step s = .next t ∧ step t = .next u ∧
      u.status = { busy := false, done := true, err := true, ovr := s.status.ovr, errcode := 2#4 } ∧
      u.mem = s.mem ∧ u.results = s.results) ∧
  (∀ w : Word, decode w = .ok .nop ↔ w = 0#32)

/-! ## The register window -/

/-- R22, R23: an aligned word read answers a next state with the register's value as the host's reply and
the block's own state untouched. -/
def Obligations.RegisterReadHasNoSideEffect : Prop :=
  ∀ (s : State) (off : BitVec 12) (rest : List Event), off.toNat % 4 = 0 →
    s.schedule = .regRead off .word :: rest →
    ∃ t, step s = .next t ∧ SameBlock s t ∧ t.replies = .reg off (regRead s off) :: s.replies ∧
      t.schedule = rest

/-- 10_state.md, register map, R25 to R42: what stands at each offset. CMD reads 0. -/
def Obligations.RegisterMapReads : Prop :=
  ∀ s : State,
    regRead s 0x000#12 = 0x504E4701#32 ∧ regRead s 0x004#12 = 0x00000416#32 ∧
    regRead s 0x008#12 = (if s.irqEn then 1#32 else 0#32) ∧ regRead s 0x010#12 = 0#32 ∧
    regRead s 0x014#12 = s.params.srcAddr ∧ regRead s 0x018#12 = s.params.srcLen ∧
    regRead s 0x01C#12 = s.params.dstAddr ∧ regRead s 0x020#12 = s.params.dstCap ∧
    regRead s 0x024#12 = s.params.width ∧ regRead s 0x028#12 = s.params.height ∧
    regRead s 0x02C#12 = s.params.chunkType ∧ regRead s 0x030#12 = s.params.crcSeed ∧
    regRead s 0x034#12 = s.results.crcResult ∧ regRead s 0x038#12 = s.results.outLen ∧
    (regRead s 0x03C#12).toNat = s.results.lastFilter.toNat ∧
    regRead s 0x040#12 = s.results.costSub ∧ regRead s 0x044#12 = s.results.costUp ∧
    regRead s 0x048#12 = s.results.costAvg ∧ regRead s 0x04C#12 = s.results.costPaeth

/-- R28: the fields of STATUS as the host reads them; ERRCODE reads 0 whenever ERR = 0, which rests on the
invariant of STATUS. -/
def Obligations.StatusFieldsRead : Prop :=
  ∀ s : State,
    (regRead s 0x00C#12).getLsbD 0 = s.status.busy ∧ (regRead s 0x00C#12).getLsbD 1 = s.status.done ∧
    (regRead s 0x00C#12).getLsbD 2 = s.status.err ∧ (regRead s 0x00C#12).getLsbD 3 = s.status.ovr ∧
    (regRead s 0x00C#12).extractLsb' 4 4 = s.status.errcode ∧
    (regRead s 0x00C#12).extractLsb' 8 24 = 0#24 ∧
    (s.status.wf = true → s.status.err = false → (regRead s 0x00C#12).extractLsb' 4 4 = 0#4)

/-- R24: an aligned access above 0x04C reads 0 and is ignored as a write; reserved bits read 0 and ignore
writes; a write to a read-only register is ignored. The step of an ignored write answers a next state in which
nothing but the schedule has changed: it raises no error. -/
def Obligations.ReservedAndReadOnlyRegisters : Prop :=
  ∀ (s : State) (v : Word),
    (∀ off : BitVec 12, 0x050 ≤ off.toNat → regRead s off = 0#32 ∧ regWrite off v s = s) ∧
    ((∀ k, 1 ≤ k → (regRead s 0x008#12).getLsbD k = false) ∧
      (∀ k, 8 ≤ k → (regRead s 0x00C#12).getLsbD k = false) ∧
      (∀ k, 3 ≤ k → (regRead s 0x03C#12).getLsbD k = false) ∧
      (∀ k, 5 ≤ k → k ≤ 7 ∨ 12 ≤ k → (regRead s 0x004#12).getLsbD k = false)) ∧
    (∀ v' : Word, v.getLsbD 0 = v'.getLsbD 0 → regWrite 0x008#12 v s = regWrite 0x008#12 v' s) ∧
    (∀ v' : Word, v.getLsbD 1 = v'.getLsbD 1 → v.getLsbD 2 = v'.getLsbD 2 → v.getLsbD 3 = v'.getLsbD 3 →
      regWrite 0x00C#12 v s = regWrite 0x00C#12 v' s) ∧
    (∀ off ∈ [0x000#12, 0x004#12, 0x034#12, 0x038#12, 0x03C#12, 0x040#12, 0x044#12, 0x048#12, 0x04C#12],
      regWrite off v s = s) ∧
    (∀ (off : BitVec 12) (rest : List Event), off.toNat % 4 = 0 →
      off ∈ [0x000#12, 0x004#12, 0x034#12, 0x038#12, 0x03C#12, 0x040#12, 0x044#12, 0x048#12, 0x04C#12] ∨
        0x050 ≤ off.toNat →
      s.schedule = .regWrite off .word v :: rest → step s = .next { s with schedule := rest })

/-- R22, R31 to R38, R27: an aligned word write of a parameter register or of CTRL changes the register it
names, to the value written, and nothing else. -/
def Obligations.RegisterWriteChangesOnlyItsRegister : Prop :=
  ∀ (s : State) (v : Word) (rest : List Event) (off : BitVec 12),
    off ∈ [0x008#12, 0x014#12, 0x018#12, 0x01C#12, 0x020#12, 0x024#12, 0x028#12, 0x02C#12, 0x030#12] →
    s.schedule = .regWrite off .word v :: rest →
    ∃ t, step s = .next t ∧
      regRead t off = (if off = 0x008#12 then v &&& 1#32 else v) ∧
      (∀ other : BitVec 12, other ≠ off → regRead t other = regRead s other) ∧
      t.status = s.status ∧ t.latCmd = s.latCmd ∧ t.lat = s.lat ∧ t.mem = s.mem ∧
      t.platform = s.platform ∧ t.holds = s.holds ∧ t.replies = s.replies ∧ t.schedule = rest

/-- R29: the W1C write of STATUS, in any state. -/
def Obligations.StatusWriteOneToClear : Prop :=
  ∀ (s : State) (v : Word) (rest : List Event), s.schedule = .regWrite 0x00C#12 .word v :: rest →
    ∃ t, step s = .next t ∧
      (v.getLsbD 1 = true → t.status.done = false) ∧ (v.getLsbD 1 = false → t.status.done = s.status.done) ∧
      (v.getLsbD 2 = true → t.status.err = false ∧ t.status.errcode = 0#4) ∧
      (v.getLsbD 2 = false → t.status.err = s.status.err ∧ t.status.errcode = s.status.errcode) ∧
      (v.getLsbD 3 = true → t.status.ovr = false) ∧ (v.getLsbD 3 = false → t.status.ovr = s.status.ovr) ∧
      t.status.busy = s.status.busy ∧ t.params = s.params ∧ t.results = s.results ∧ t.irqEn = s.irqEn ∧
      t.latCmd = s.latCmd ∧ t.lat = s.lat ∧ t.mem = s.mem

/-- R44, R45: a CMD write while IDLE accepts every word: the word and the eight parameter registers are
latched, DONE, ERR and ERRCODE cleared, BUSY set; no other register and no memory changes. -/
def Obligations.AcceptanceLatches : Prop :=
  ∀ (s : State) (w : Word) (rest : List Event), s.status.busy = false →
    s.schedule = cmdWrite w :: rest →
    ∃ t, step s = .next t ∧ t.latCmd = w ∧ t.lat = s.params ∧
      t.status = { busy := true, done := false, err := false, ovr := s.status.ovr, errcode := 0#4 } ∧
      t.params = s.params ∧ t.results = s.results ∧ t.irqEn = s.irqEn ∧ t.mem = s.mem ∧ t.schedule = rest

/-- R46: a CMD write while BUSY is dropped and sets OVR; the command in progress continues unchanged. -/
def Obligations.CommandWordDroppedWhileBusy : Prop :=
  ∀ (s : State) (w : Word) (rest : List Event), s.status.busy = true →
    s.schedule = cmdWrite w :: rest →
    ∃ t, step s = .next t ∧
      t = { s with status := { s.status with ovr := true }, schedule := rest }

/-- R49: a parameter-register write and the command in progress do not disturb each other (they commute),
the next acceptance latches the new value, and CTRL and STATUS writes take effect at once. -/
def Obligations.RegisterWritesWhileBusy : Prop :=
  ∀ (s : State) (v : Word), s.status.busy = true →
    (∀ r ∈ [Reg.srcAddr, .srcLen, .dstAddr, .dstCap, .width, .height, .chunkType, .crcSeed],
      readReg (writeReg r v s) r = v ∧ (writeReg r v s).status.busy = true ∧
      (∀ t, engineTurn s = .next t →
        engineTurn (writeReg r v s) = .next (writeReg r v t) ∧
        ∀ w, (accept w (writeReg r v t)).lat = (writeReg r v t).params)) ∧
    (writeReg .ctrl v s).irqEn = v.getLsbD 0 ∧
    (writeReg .status v s).status = s.status.writeOneToClear v

/-- R23: a byte or halfword access, or a misaligned one, to the window is a fault of the host. -/
def Obligations.UnalignedRegisterAccessFaults : Prop :=
  ∀ (s : State) (off : BitVec 12) (size : AccessSize) (v : Word) (rest : List Event),
    size ≠ .word ∨ off.toNat % 4 ≠ 0 →
    (s.schedule = .regRead off size :: rest → step s = .fault .hostAccess) ∧
    (s.schedule = .regWrite off size v :: rest → step s = .fault .hostAccess)

/-- R209: the interrupt output is `IRQ_EN AND DONE`; it rises at an enabled completion, successful or not,
and falls when DONE is cleared, IRQ_EN is cleared, a command is accepted, or the block is reset. -/
def Obligations.InterruptRisesAndFalls : Prop :=
  ∀ s : State,
    irq s = (s.irqEn && s.status.done) ∧
    (s.irqEn = true → irq (complete s) = true ∧ ∀ e, irq (raiseError e s) = true) ∧
    (s.irqEn = false → irq s = false) ∧
    (∀ v : Word, v.getLsbD 1 = true → irq (writeReg .status v s) = false) ∧
    (∀ v : Word, v.getLsbD 0 = false → irq (writeReg .ctrl v s) = false) ∧
    (∀ w, irq (accept w s) = false) ∧ irq (resetInput s) = false

/-! ## What a command may touch -/

/-- NOP and CRC (R62, R174, R176): a frame. Whatever they answer, every byte of memory and every register
stays, but for STATUS and, on CRC's success, CRC_RESULT; one that ends with an error keeps every result
register. Only a bus error counts draws: of none. -/
def Obligations.NopAndCrcFrame : Prop :=
  ∀ (i : Instr) (s t : State), i = .nop ∨ i = .crc → exec i s = .next t →
    t.irqEn = s.irqEn ∧ t.params = s.params ∧ t.latCmd = s.latCmd ∧ t.lat = s.lat ∧
    t.platform = s.platform ∧ t.holds = s.holds ∧ t.schedule = s.schedule ∧ t.replies = s.replies ∧
    t.freeCtr = s.freeCtr ∧ (∀ a, t.mem.read a = s.mem.read a) ∧
    t.status.ovr = s.status.ovr ∧ t.status.busy = false ∧ t.status.done = true ∧
    (i = .nop → t.results = s.results) ∧ (t.status.err = true → t.results = s.results) ∧
    t.results = { s.results with crcResult := t.results.crcResult }

/-- FRAME (R62, R170, R171): a frame. Every byte outside `[DST_ADDR, DST_ADDR + L + 12)` reads as before, and
of the registers only STATUS, CRC_RESULT and OUT_LEN change. Memory is in its canonical form (the invariant). -/
def Obligations.FrameFrame : Prop :=
  ∀ s t : State, s.mem.wf = true → exec .frame s = .next t →
    t.irqEn = s.irqEn ∧ t.params = s.params ∧ t.latCmd = s.latCmd ∧ t.lat = s.lat ∧
    t.platform = s.platform ∧ t.holds = s.holds ∧ t.schedule = s.schedule ∧ t.replies = s.replies ∧
    t.status.ovr = s.status.ovr ∧ t.status.busy = false ∧ t.status.done = true ∧
    t.results = { s.results with crcResult := t.results.crcResult, outLen := t.results.outLen } ∧
    (∀ a, ¬ (s.lat.dstAddr.toNat ≤ a ∧ a < s.lat.dstAddr.toNat + (s.lat.srcLen.toNat + 12)) →
      t.mem.read a = s.mem.read a)

/-- FILTER.NONE, .SUB, .UP, .AVG, .PAETH and .AUTO (R62, R138, R139): a frame. Every byte outside
`[DST_ADDR, DST_ADDR + (4W+1)H)` reads as before, and of the registers only STATUS, OUT_LEN, LAST_FILTER and
the COST registers change. Memory is in its canonical form (the invariant). -/
def Obligations.FilterFrame : Prop :=
  ∀ (sel : FilterSel) (bd ct : Nat) (s t : State), s.mem.wf = true →
    exec (filterInstr sel bd ct) s = .next t →
    t.irqEn = s.irqEn ∧ t.params = s.params ∧ t.latCmd = s.latCmd ∧ t.lat = s.lat ∧
    t.platform = s.platform ∧ t.holds = s.holds ∧ t.schedule = s.schedule ∧ t.replies = s.replies ∧
    t.status.ovr = s.status.ovr ∧ t.status.busy = false ∧ t.status.done = true ∧
    t.results.crcResult = s.results.crcResult ∧
    (∀ a, ¬ (s.lat.dstAddr.toNat ≤ a ∧
        a < s.lat.dstAddr.toNat + (4 * s.lat.width.toNat + 1) * s.lat.height.toNat) →
      t.mem.read a = s.mem.read a)

/-- R45, R75: a command reads the latches, never the live registers: any change of the live parameter
registers, of IRQ_EN or of OVR leaves what the command does as it was. -/
def Obligations.CommandIgnoresLiveRegisters : Prop :=
  ∀ (i : Instr) (s : State) (p : Params) (en ov : Bool),
    (∀ t, exec i s = .next t →
      exec i { s with params := p, irqEn := en, status := { s.status with ovr := ov } } =
        .next { t with params := p, irqEn := en, status := { t.status with ovr := ov } }) ∧
    (∀ r, exec i s = .fault r →
      exec i { s with params := p, irqEn := en, status := { s.status with ovr := ov } } = .fault r) ∧
    (∀ r, exec i s = .refused r →
      exec i { s with params := p, irqEn := en, status := { s.status with ovr := ov } } = .refused r)

/-- R62: a command reads only bytes of its read range. Two memories that agree there give the same outcome:
the same stop, or next states with the same STATUS and result registers and, where the command succeeds,
the same bytes in its write range. Both memories are in canonical form (the invariant). The ranges are those of
R62's table. -/
def Obligations.CommandReadsOnlyItsReadRange : Prop :=
  (∀ (i : Instr) (p : Params) (a : Nat),
    ((readRange i p).has a = true ↔
      i ≠ .nop ∧ p.srcAddr.toNat ≤ a ∧ a < p.srcAddr.toNat + p.srcLen.toNat) ∧
    ((writeRange i p).has a = true ↔
      i ≠ .nop ∧ i ≠ .crc ∧ p.dstAddr.toNat ≤ a ∧
        a < p.dstAddr.toNat +
          (if i = .frame then p.srcLen.toNat + 12 else (4 * p.width.toNat + 1) * p.height.toNat))) ∧
  ∀ (i : Instr) (s : State) (m : Memory), s.mem.wf = true → m.wf = true →
    sameBytes (readRange i s.lat) s.mem m →
    (∀ t, exec i s = .next t → ∃ u, exec i { s with mem := m } = .next u ∧ u.status = t.status ∧
      u.results = t.results ∧ (t.status.err = false → sameBytes (writeRange i s.lat) t.mem u.mem)) ∧
    (∀ r, exec i s = .fault r → exec i { s with mem := m } = .fault r) ∧
    (∀ r, exec i s = .refused r → exec i { s with mem := m } = .refused r)

/-- R203: a command that ends with an error other than ERR_BUS has written no memory and no result register;
STATUS shows BUSY = 0, DONE = 1, ERR = 1 and the code, and nothing else of the block changes; the block does
not retry, and the next command starts afresh. -/
def Obligations.ErrorChangesOnlyStatus : Prop :=
  ∀ (i : Instr) (s t : State), exec i s = .next t → t.status.err = true → t.status.errcode ≠ 9#4 →
    t.mem = s.mem ∧ t.results = s.results ∧
    t.status = { busy := false, done := true, err := true, ovr := s.status.ovr, errcode := t.status.errcode } ∧
    t = { s with status := t.status } ∧
    (t.schedule = [] → step t = .next t) ∧
    (∀ w, (accept w t).status =
      { busy := true, done := false, err := false, ovr := s.status.ovr, errcode := 0#4 })

/-- R200, R48: on normal memory every command of the table completes, whatever its operands: successfully,
or with exactly one error code of 1 to 8. -/
def Obligations.CommandsCompleteOnNormalMemory : Prop :=
  ∀ (i : Instr) (s : State), commandMemoryNormal i s = true →
    ∃ t, exec i s = .next t ∧ t.status.busy = false ∧ t.status.done = true ∧
      ((t.status.err = false ∧ t.status.errcode = 0#4) ∨
        (t.status.err = true ∧ 1 ≤ t.status.errcode.toNat ∧ t.status.errcode.toNat ≤ 8))

/-! ## The FILTER commands -/

/-- R137: the checks of all six FILTER commands, in order, the first failing one ending the command with its
error, whose code (R200) STATUS then shows. -/
def Obligations.FilterChecksInOrder : Prop :=
  ∀ (sel : FilterSel) (bd ct : Nat) (s : State),
    let W := s.lat.width.toNat
    let H := s.lat.height.toNat
    let L := s.lat.srcLen.toNat
    let S := s.lat.srcAddr.toNat
    let D := s.lat.dstAddr.toNat
    let n := (4 * W + 1) * H
    let format := bd = 8 ∧ ct = 6
    let dim := 0 < W ∧ W ≤ 2 ^ 22 ∧ 0 < H
    let len := L = 4 * W * H
    let cap := n ≤ s.lat.dstCap.toNat
    let range := S + L ≤ 2 ^ 32 ∧ D + n ≤ 2 ^ 32
    let fails := fun e code => exec (filterInstr sel bd ct) s = .next (raiseError e s) ∧
      (raiseError e s).status =
        { busy := false, done := true, err := true, ovr := s.status.ovr, errcode := code }
    (¬ format → fails .format 3#4) ∧
    (format → ¬ dim → fails .dim 4#4) ∧
    (format → dim → ¬ len → fails .len 5#4) ∧
    (format → dim → len → ¬ cap → fails .cap 6#4) ∧
    (format → dim → len → cap → ¬ range → fails .range 7#4) ∧
    (format → dim → len → cap → range → 0 < L → 0 < n → S < D + n → D < S + L → fails .overlap 8#4)

/-- R134, R138 for all six FILTER commands: with valid operands on normal memory the command completes
without an error, and for every row y the byte at `D + y*(bw+1)` is the row's filter type and the bw bytes
after it are the filtered bytes of that type, all computed from the source as it was. Under a forced selection
the row's type is the selection's (R133; `SelectionIsFirstStrictMinimum` says FILTER.AUTO's); the types are
numbered 0 to 4. -/
def Obligations.FilterWritesFilteredBuffer : Prop :=
  (∀ (t : FilterType) (row prev : List Byte), rowType (.forced t) row prev = t) ∧
  (FilterType.none.number = 0 ∧ FilterType.sub.number = 1 ∧ FilterType.up.number = 2 ∧
    FilterType.avg.number = 3 ∧ FilterType.paeth.number = 4) ∧
  ∀ (sel : FilterSel) (s : State), s.mem.wf = true → FilterOperandsValid s.lat →
    commandMemoryNormal (filterInstr sel 8 6) s = true →
    ∃ t, exec (filterInstr sel 8 6) s = .next t ∧
      t.status = { busy := false, done := true, err := false, ovr := s.status.ovr, errcode := 0#4 } ∧
      ∀ y, y < s.lat.height.toNat →
        let bw := 4 * s.lat.width.toNat
        let row := rawRow s.mem s.lat.srcAddr.toNat bw y
        let prev := prevRow s.mem s.lat.srcAddr.toNat bw y
        let out := s.lat.dstAddr.toNat + y * (bw + 1)
        (t.mem.read out).toNat = (rowType sel row prev).number ∧
        ∀ x, x < bw → t.mem.read (out + 1 + x) = filteredByte (rowType sel row prev) row prev x

/-- R120: the raw rows and the previous rows, of bw bytes each, byte by byte from the source range. -/
def Obligations.RowsAreSourceBytes : Prop :=
  ∀ (m : Memory) (src bw y x : Nat), x < bw →
    (rawRow m src bw y).getD x 0#8 = m.read (src + y * bw + x) ∧
    (prevRow m src bw 0).getD x 0#8 = 0#8 ∧
    (prevRow m src bw (y + 1)).getD x 0#8 = m.read (src + y * bw + x) ∧
    (rawRow m src bw y).length = bw ∧ (prevRow m src bw y).length = bw

/-- R139 for all six FILTER commands: the result registers after success are exact: OUT_LEN = (bw+1)*H,
LAST_FILTER and the four costs of row H-1; CRC_RESULT unchanged. -/
def Obligations.FilterResultRegisters : Prop :=
  ∀ (sel : FilterSel) (s : State), FilterOperandsValid s.lat →
    commandMemoryNormal (filterInstr sel 8 6) s = true →
    ∃ t, exec (filterInstr sel 8 6) s = .next t ∧
      let bw := 4 * s.lat.width.toNat
      let row := rawRow s.mem s.lat.srcAddr.toNat bw (s.lat.height.toNat - 1)
      let prev := prevRow s.mem s.lat.srcAddr.toNat bw (s.lat.height.toNat - 1)
      t.results.outLen.toNat = (bw + 1) * s.lat.height.toNat ∧
      t.results.lastFilter.toNat = (rowType sel row prev).number ∧
      t.results.costSub.toNat = costOf .sub row prev ∧ t.results.costUp.toNat = costOf .up row prev ∧
      t.results.costAvg.toNat = costOf .avg row prev ∧ t.results.costPaeth.toNat = costOf .paeth row prev ∧
      t.results.crcResult = s.results.crcResult

/-- R123 to R126, R128: the filtered byte of each type as byte arithmetic modulo 256, the left byte 0 in the
first four columns, the average's sum never reduced first. -/
def Obligations.FilteredBytesModulo256 : Prop :=
  ∀ (row prev : List Byte) (x : Nat),
    let R := row.getD x 0#8
    let a := if x < 4 then 0#8 else row.getD (x - 4) 0#8
    let b := prev.getD x 0#8
    let c := if x < 4 then 0#8 else prev.getD (x - 4) 0#8
    filteredByte .none row prev x = R ∧
    filteredByte .sub row prev x = R - a ∧
    filteredByte .up row prev x = R - b ∧
    filteredByte .avg row prev x = R - BitVec.ofNat 8 ((a.toNat + b.toNat) / 2) ∧
    filteredByte .paeth row prev x = R - BitVec.ofNat 8 (paethOf a.toNat b.toNat c.toNat)

/-- R127: the Paeth predictor by its distances |b-c|, |a-c|, |a+b-2c|, ties to a, then b, then c; the two
vectors that tell the tie order apart. -/
def Obligations.PaethTieOrder : Prop :=
  (∀ a b c : Nat,
    let pa := ((b : Int) - c).natAbs
    let pb := ((a : Int) - c).natAbs
    let pc := ((a : Int) + b - 2 * c).natAbs
    (pa ≤ pb → pa ≤ pc → paethOf a b c = a) ∧
    (¬ (pa ≤ pb ∧ pa ≤ pc) → pb ≤ pc → paethOf a b c = b) ∧
    (¬ (pa ≤ pb ∧ pa ≤ pc) → ¬ pb ≤ pc → paethOf a b c = c)) ∧
  paethOf 8 11 10 = 8 ∧ paethOf 21 18 20 = 18

/-- R122: the differences as exact integers, raw byte minus predictor, in -255..255 (D0 in 0..255), left and
upper-left 0 in the first four columns (R121). R130: the cost of Sub, Up, Average and Paeth is the sum of the
pre-wrap magnitudes, column by column, with the costs of both rows of image E (95_test_vectors.md section 3.1).
R131: so the cost of every legal row is at most 255 * bw, below 2^32. -/
def Obligations.CostFitsItsRegister : Prop :=
  (let row0 := [0x0A#8, 0x14#8, 0x1E#8, 0x28#8, 0x05#8, 0x19#8, 0x23#8, 0xFF#8]
    let row1 := [0x0C#8, 0x12#8, 0x1E#8, 0xC8#8, 0x00#8, 0xFF#8, 0x80#8, 0x01#8]
    rowCosts row0 (zeroRow 8) = { sub := 330, up := 420, avg := 370, paeth := 330 } ∧
    rowCosts row1 row0 = { sub := 806, up := 746, avg := 774, paeth := 746 }) ∧
  ∀ (t : FilterType) (row prev : List Byte),
    (∀ x, -255 ≤ differenceOf t row prev x ∧ differenceOf t row prev x ≤ 255 ∧
      (t = .none → 0 ≤ differenceOf t row prev x)) ∧
    (∀ x,
      let R : Int := (row.getD x 0#8).toNat
      let a := if x < 4 then 0 else (row.getD (x - 4) 0#8).toNat
      let b := (prev.getD x 0#8).toNat
      let c := if x < 4 then 0 else (prev.getD (x - 4) 0#8).toNat
      differenceOf .none row prev x = R ∧
      differenceOf .sub row prev x = R - (a : Int) ∧
      differenceOf .up row prev x = R - (b : Int) ∧
      differenceOf .avg row prev x = R - (((a + b) / 2 : Nat) : Int) ∧
      differenceOf .paeth row prev x = R - (paethOf a b c : Int)) ∧
    (t ≠ .none → costOf t [] prev = 0 ∧
      ∀ v : Byte, costOf t (row ++ [v]) prev =
        costOf t row prev + (differenceOf t (row ++ [v]) prev row.length).natAbs) ∧
    (row.length ≤ 2 ^ 24 → costOf t row prev ≤ 255 * row.length ∧ costOf t row prev < 2 ^ 32)

/-- R132: the heuristic's choice is Sub, Up, Average or Paeth, never None; no type is cheaper, and every type
before it in the order is strictly dearer: for every four costs, and for the type FILTER.AUTO gives a row, by the
row's own four costs. -/
def Obligations.SelectionIsFirstStrictMinimum : Prop :=
  (∀ k : Costs,
    (selectType k = .sub ∧ k.sub ≤ k.up ∧ k.sub ≤ k.avg ∧ k.sub ≤ k.paeth) ∨
    (selectType k = .up ∧ k.up < k.sub ∧ k.up ≤ k.avg ∧ k.up ≤ k.paeth) ∨
    (selectType k = .avg ∧ k.avg < k.sub ∧ k.avg < k.up ∧ k.avg ≤ k.paeth) ∨
    (selectType k = .paeth ∧ k.paeth < k.sub ∧ k.paeth < k.up ∧ k.paeth < k.avg)) ∧
  (∀ row prev : List Byte,
    let cost := fun t => costOf t row prev
    let ft := rowType .auto row prev
    (ft = .sub ∧ cost .sub ≤ cost .up ∧ cost .sub ≤ cost .avg ∧ cost .sub ≤ cost .paeth) ∨
    (ft = .up ∧ cost .up < cost .sub ∧ cost .up ≤ cost .avg ∧ cost .up ≤ cost .paeth) ∨
    (ft = .avg ∧ cost .avg < cost .sub ∧ cost .avg < cost .up ∧ cost .avg ≤ cost .paeth) ∨
    (ft = .paeth ∧ cost .paeth < cost .sub ∧ cost .paeth < cost .up ∧ cost .paeth < cost .avg))

/-- R140, R143, R145 (corner cases): on row 0 Paeth equals Sub, in bytes and cost, Up equals None, and the
heuristic never selects Paeth. -/
def Obligations.FirstRowCorners : Prop :=
  ∀ row : List Byte,
    filterRow .paeth row (zeroRow row.length) = filterRow .sub row (zeroRow row.length) ∧
    costOf .paeth row (zeroRow row.length) = costOf .sub row (zeroRow row.length) ∧
    filterRow .up row (zeroRow row.length) = row ∧
    costOf .up row (zeroRow row.length) = (row.map BitVec.toNat).sum ∧
    rowType .auto row (zeroRow row.length) ≠ .paeth

/-- R146 on one row: every filter is invertible on every row, including row 0 and the first four columns. -/
def Obligations.FilterRowInverts : Prop :=
  ∀ (t : FilterType) (row prev : List Byte), recoverRow t prev (filterRow t row prev) = row

/-- R146 on an image: from the rows of the FilteredBuffer alone, whatever the selection chose row by row, the
raw rows are recovered. -/
def Obligations.FilteredImageInverts : Prop :=
  ∀ (sel : FilterSel) (prev : List Byte) (rows : List (List Byte)),
    recoverRows prev (encodeRows sel prev rows) = rows

/-! ## FRAME, CRC and NOP -/

/-- R160: the CRC of no byte is the seed (inverted on entry and again on exit), each further byte goes through
the rule's eight bit steps, written out here, and the check value; R161: the seed continues a running CRC, with
the vector of 95_test_vectors.md section 5.1. -/
def Obligations.CrcContinues : Prop :=
  (∀ seed : Word, crc32 seed [] = seed) ∧
  (∀ (seed : Word) (B : List Byte) (v : Byte),
    let bit := fun c : Word => if c.getLsbD 0 then (c >>> 1) ^^^ 0xEDB88320#32 else c >>> 1
    let c := (crc32 seed B ^^^ 0xFFFFFFFF#32) ^^^ v.zeroExtend 32
    crc32 seed (B ++ [v]) = bit (bit (bit (bit (bit (bit (bit (bit c))))))) ^^^ 0xFFFFFFFF#32) ∧
  (∀ A B : List Byte, crc32 (crc32 0#32 A) B = crc32 0#32 (A ++ B)) ∧
  crc32 0#32 [0x31#8, 0x32#8, 0x33#8, 0x34#8, 0x35#8, 0x36#8, 0x37#8, 0x38#8, 0x39#8] = 0xCBF43926#32 ∧
  crc32 0x9BE3E0A3#32 [0x35#8, 0x36#8, 0x37#8, 0x38#8, 0x39#8] = 0xCBF43926#32

/-- R162, R163: the chunk's four parts, and that its last four bytes are the CRC of bytes [4:8+L). R6: be32 is
four bytes, the most significant at the lowest address, so the length, the tag and the CRC are given byte by
byte. -/
def Obligations.ChunkLayout : Prop :=
  (∀ v : Word, (be32 v).length = 4 ∧
    ∀ k, k < 4 → ((be32 v).getD k 0#8).toNat = v.toNat / 2 ^ (8 * (3 - k)) % 256) ∧
  ∀ (tag : Word) (payload : List Byte), payload.length < 2 ^ 32 →
    let c := chunkBytes tag payload
    let L := payload.length
    c.length = L + 12 ∧ c.take 4 = be32 (BitVec.ofNat 32 L) ∧ (c.drop 4).take 4 = be32 tag ∧
    (c.drop 8).take L = payload ∧ c.drop (8 + L) = be32 (crc32 0#32 (be32 tag ++ payload)) ∧
    c.drop (8 + L) = be32 (crc32 0#32 ((c.drop 4).take (4 + L))) ∧
    ∀ k, k < 4 →
      (c.getD k 0#8).toNat = L / 2 ^ (8 * (3 - k)) % 256 ∧
      (c.getD (4 + k) 0#8).toNat = tag.toNat / 2 ^ (8 * (3 - k)) % 256 ∧
      (c.getD (8 + L + k) 0#8).toNat =
        (crc32 0#32 ((c.drop 4).take (4 + L))).toNat / 2 ^ (8 * (3 - k)) % 256

/-- R168: the checks of FRAME, in order, each with its code (R200); a payload in place (R169), and ranges that do
not meet, are no overlap error. -/
def Obligations.FrameChecksInOrder : Prop :=
  ∀ s : State,
    let L := s.lat.srcLen.toNat
    let S := s.lat.srcAddr.toNat
    let D := s.lat.dstAddr.toNat
    let n := L + 12
    let cap := n ≤ s.lat.dstCap.toNat
    let range := S + L ≤ 2 ^ 32 ∧ D + n ≤ 2 ^ 32
    let fails := fun e code => exec .frame s = .next (raiseError e s) ∧
      (raiseError e s).status =
        { busy := false, done := true, err := true, ovr := s.status.ovr, errcode := code }
    (¬ cap → fails .cap 6#4) ∧
    (cap → ¬ range → fails .range 7#4) ∧
    (cap → range → 0 < L → S < D + n → D < S + L → S ≠ D + 8 → fails .overlap 8#4) ∧
    (cap → range → L = 0 ∨ D + n ≤ S ∨ S + L ≤ D ∨ S = D + 8 → exec .frame s ≠ .next (raiseError .overlap s))

/-- R170, R171: with valid operands on normal memory FRAME completes without an error; the L + 12 bytes at
DST_ADDR are the chunk of the payload as it was, CRC_RESULT its CRC and OUT_LEN its length. -/
def Obligations.FrameWritesChunk : Prop :=
  ∀ s : State, s.mem.wf = true → FrameOperandsValid s.lat → commandMemoryNormal .frame s = true →
    ∃ t, exec .frame s = .next t ∧
      let L := s.lat.srcLen.toNat
      let payload := s.mem.readBytes s.lat.srcAddr.toNat L
      let k := crc32 0#32 (be32 s.lat.chunkType ++ payload)
      t.mem.readBytes s.lat.dstAddr.toNat (L + 12) =
        be32 s.lat.srcLen ++ be32 s.lat.chunkType ++ payload ++ be32 k ∧
      t.results.crcResult = k ∧ t.results.outLen.toNat = L + 12 ∧
      t.results.lastFilter = s.results.lastFilter ∧ t.results.costSub = s.results.costSub ∧
      t.results.costUp = s.results.costUp ∧ t.results.costAvg = s.results.costAvg ∧
      t.results.costPaeth = s.results.costPaeth ∧
      t.status = { busy := false, done := true, err := false, ovr := s.status.ovr, errcode := 0#4 }

/-- R169: a payload in place (SRC_ADDR = DST_ADDR + 8) is framed to the same chunk as the same payload
elsewhere, and its own bytes stay; any other overlap is ERR_OVERLAP. -/
def Obligations.FrameInPlacePayload : Prop :=
  (∀ s s' : State, s.mem.wf = true → s'.mem.wf = true → FrameOperandsValid s.lat → FrameOperandsValid s'.lat →
    commandMemoryNormal .frame s = true → commandMemoryNormal .frame s' = true →
    s.lat.srcAddr.toNat = s.lat.dstAddr.toNat + 8 → s'.lat.srcLen = s.lat.srcLen →
    s'.lat.chunkType = s.lat.chunkType →
    s.mem.readBytes s.lat.srcAddr.toNat s.lat.srcLen.toNat =
      s'.mem.readBytes s'.lat.srcAddr.toNat s.lat.srcLen.toNat →
    ∃ t t', exec .frame s = .next t ∧ exec .frame s' = .next t' ∧
      t.mem.readBytes s.lat.dstAddr.toNat (s.lat.srcLen.toNat + 12) =
        t'.mem.readBytes s'.lat.dstAddr.toNat (s.lat.srcLen.toNat + 12) ∧
      t.mem.readBytes s.lat.srcAddr.toNat s.lat.srcLen.toNat =
        s.mem.readBytes s.lat.srcAddr.toNat s.lat.srcLen.toNat) ∧
  (∀ s : State, s.lat.srcLen.toNat + 12 ≤ s.lat.dstCap.toNat →
    s.lat.srcAddr.toNat + s.lat.srcLen.toNat ≤ 2 ^ 32 →
    s.lat.dstAddr.toNat + (s.lat.srcLen.toNat + 12) ≤ 2 ^ 32 →
    s.lat.srcAddr.toNat ≠ s.lat.dstAddr.toNat + 8 →
    ¬ rangesApart s.lat.srcAddr.toNat s.lat.srcLen.toNat s.lat.dstAddr.toNat (s.lat.srcLen.toNat + 12) →
    exec .frame s = .next (raiseError .overlap s))

/-- R173, R174: CRC fails with ERR_RANGE exactly when its range ends beyond 2^32, and otherwise, on normal
memory, writes the CRC of its bytes from its seed to CRC_RESULT and nothing else. -/
def Obligations.CrcCommandResult : Prop :=
  ∀ s : State,
    (2 ^ 32 < s.lat.srcAddr.toNat + s.lat.srcLen.toNat → exec .crc s = .next (raiseError .range s)) ∧
    (s.lat.srcAddr.toNat + s.lat.srcLen.toNat ≤ 2 ^ 32 → commandMemoryNormal .crc s = true →
      ∃ t, exec .crc s = .next t ∧
        t.results =
          { s.results with
            crcResult := crc32 s.lat.crcSeed (s.mem.readBytes s.lat.srcAddr.toNat s.lat.srcLen.toNat) } ∧
        t.status = { busy := false, done := true, err := false, ovr := s.status.ovr, errcode := 0#4 } ∧
        t.mem = s.mem ∧ (s.lat.srcLen = 0#32 → t.results.crcResult = s.lat.crcSeed))

/-- R176: NOP completes in every state and changes nothing but STATUS. -/
def Obligations.NopOnlyCompletes : Prop :=
  ∀ s : State, ∃ t, exec .nop s = .next t ∧
    t = { s with status := { busy := false, done := true, err := false, ovr := s.status.ovr, errcode := 0#4 } }

/-! ## The platform's say, reset, hazards, the schedule -/

/-- R205: a command whose checks pass, and which accesses an address that answers with an error, completes
with ERR_BUS (code 9): no result register changes, and every byte outside its write range reads as before.
The bytes inside are free values, of which nothing is said. That the model takes this effect for the
platform's error responses is its choice (log 7). -/
def Obligations.BusErrorCompletes : Prop :=
  ∀ (i : Instr) (s : State), s.mem.wf = true → commandOperandsValid i s.lat →
    s.platform.meetsDevice (readRange i s.lat) = false → s.platform.meetsDevice (writeRange i s.lat) = false →
    s.platform.meetsKind .absent (readRange i s.lat) = false →
    s.platform.meetsKind .absent (writeRange i s.lat) = false →
    (s.platform.meetsKind .busError (readRange i s.lat) = true ∨
      s.platform.meetsKind .busError (writeRange i s.lat) = true) →
    ∃ t, exec i s = .next t ∧
      t.status = { busy := false, done := true, err := true, ovr := s.status.ovr, errcode := 9#4 } ∧
      t.results = s.results ∧ t.mem.wf = true ∧
      (∀ a, (writeRange i s.lat).has a = false → t.mem.read a = s.mem.read a)

/-- R66, R205: a command whose checks pass is refused when a range covers a device, the register window among
them; and, when none does, is a fault when a range covers an address the platform does not admit. That a
device counts first where a command meets both, and that the refusal comes at the engine's turn, are the
model's choices (logs 4 and 22). -/
def Obligations.CommandsStopOutsideNormalMemory : Prop :=
  ∀ (i : Instr) (s : State), commandOperandsValid i s.lat →
    ((s.platform.meetsDevice (readRange i s.lat) = true ∨ s.platform.meetsDevice (writeRange i s.lat) = true) →
      exec i s = .refused .deviceRange) ∧
    (s.platform.meetsDevice (readRange i s.lat) = false →
      s.platform.meetsDevice (writeRange i s.lat) = false →
      (s.platform.meetsKind .absent (readRange i s.lat) = true ∨
        s.platform.meetsKind .absent (writeRange i s.lat) = true) →
      exec i s = .fault .accessNotAdmitted)

/-- R240, R241, R242: the reset input, at any time, puts every register in its reset state and the block in
IDLE; memory is unchanged when the block was IDLE, and outside the abandoned command's write range when it
was BUSY. In that range the bytes are free values: it is R62's also for a command whose checks would have
failed and on bytes of the read range (log 9), on a device (log 22), and on addresses the platform does not admit
or answers with an error (log 24), by the model's choice. -/
def Obligations.ResetInputAtAnyTime : Prop :=
  ∀ (s : State) (rest : List Event), s.mem.wf = true → s.schedule = .reset :: rest →
    ∃ t, step s = .next t ∧ (∀ r : Reg, readReg t r = readReg State.reset r) ∧ t.status.busy = false ∧
      irq t = false ∧ (s.status.busy = false → t.mem = s.mem) ∧
      (∀ a, (wordWrites s.latCmd s.lat).has a = false → t.mem.read a = s.mem.read a)

/-- R244: the four commands right after reset, no register written. -/
def Obligations.CommandsRightAfterReset : Prop :=
  (∃ t, step (State.reset.withFetchWord 32 0x00060871) = .next t ∧ t.status.word = 0x46#32 ∧
    t.results = Results.reset) ∧
  (∃ t, step (State.reset.withFetchWord 32 0x00000002) = .next t ∧ t.status.word = 0x66#32 ∧
    t.results = Results.reset) ∧
  (∃ t, step (State.reset.withFetchWord 32 0x00000003) = .next t ∧ t.status.word = 0x02#32 ∧
    t.results = Results.reset) ∧
  (∃ t, step (State.reset.withFetchWord 32 0x00000000) = .next t ∧ t.status.word = 0x02#32 ∧
    t.results = Results.reset)

/-- R245: a host access that the hazard rule forbids is the hazard fault on plain memory, in every state: from
the acceptance, over the completion (the engine's turn gives no buffer back), to the host's observation of it
(`ObservedCompletionReturnsBuffers`). While a command is in progress, the forbidden accesses take in every
access to a byte of its write range and every write to a byte of its read range. That R245's fault stands in
the step, that the buffers are noted at acceptance, and that a read of a byte in both ranges is forbidden, are
the model's choices (log 10). -/
def Obligations.HazardAccessesFault : Prop :=
  (∀ (s : State) (a : Word) (v : Byte) (rest : List Event), s.platform.normal (oneByte a.toNat) = true →
    (readHazard a.toNat s = true → s.schedule = .memRead a :: rest → step s = .fault .hazard) ∧
    (writeHazard a.toNat s = true → s.schedule = .memWrite a v :: rest → step s = .fault .hazard)) ∧
  (∀ (s : State) (a : Word), Inv s → s.status.busy = true →
    ((wordWrites s.latCmd s.lat).has a.toNat = true → readHazard a.toNat s = true) ∧
    ((wordWrites s.latCmd s.lat).has a.toNat = true ∨ (wordReads s.latCmd s.lat).has a.toNat = true →
      writeHazard a.toNat s = true)) ∧
  (∀ s t : State, engineTurn s = .next t → t.holds = s.holds)

/-- R245, R71: host accesses to bytes that no command holds: a read returns the byte and changes nothing of
the block, while BUSY too (the read range may be read); a write stores the byte and nothing else. That the
host's accesses are single bytes, and which bytes are held, are the model's form (logs 10 and 12). -/
def Obligations.HostMemoryAccessesAllowed : Prop :=
  ∀ (s : State) (a : Word) (v : Byte) (rest : List Event), s.mem.wf = true →
    s.platform.normal (oneByte a.toNat) = true →
    (readHazard a.toNat s = false → s.schedule = .memRead a :: rest →
      ∃ t, step s = .next t ∧ SameBlock s t ∧ t.replies = .mem a (s.mem.read a.toNat) :: s.replies) ∧
    (writeHazard a.toNat s = false → s.schedule = .memWrite a v :: rest →
      ∃ t, step s = .next t ∧ t.mem.read a.toNat = v ∧ (∀ b, b ≠ a.toNat → t.mem.read b = s.mem.read b) ∧
        t.status = s.status ∧ t.params = s.params ∧ t.results = s.results ∧ t.latCmd = s.latCmd ∧
        t.lat = s.lat ∧ t.irqEn = s.irqEn)

/-- R71: a STATUS read that shows BUSY = 0 and DONE = 1 gives every buffer back; a STATUS read that does not,
and every read of another register, gives none back. That one observation gives back the buffers of all
earlier commands is the model's choice (log 10). -/
def Obligations.ObservedCompletionReturnsBuffers : Prop :=
  ∀ (s : State) (off : BitVec 12) (rest : List Event), off.toNat % 4 = 0 →
    s.schedule = .regRead off .word :: rest →
    ∃ t, step s = .next t ∧
      (off = 0x00C#12 → s.status.busy = false → s.status.done = true → t.holds = []) ∧
      (off ≠ 0x00C#12 ∨ s.status.busy = true ∨ s.status.done = false → t.holds = s.holds)

/-- Every step that answers a next state keeps the invariant: memory in canonical form, STATUS and the
result registers within their rules, and the command in progress owning its buffers. It leaves the
platform, whose `BASE` and map are parameters (R22, U1). -/
def Obligations.EveryStepKeepsInvariant : Prop :=
  ∀ s t : State, Inv s → step s = .next t → Inv t ∧ t.platform = s.platform

/-- R246: the result registers change only at a successful completion (or at the reset input, R240). -/
def Obligations.ResultsChangeOnlyAtSuccess : Prop :=
  ∀ s t : State, step s = .next t → t.results ≠ s.results →
    (∃ rest, s.schedule = .reset :: rest) ∨
    (s.status.busy = true ∧ t.status.busy = false ∧ t.status.done = true ∧ t.status.err = false)

/-- R243, R47: a command in progress stays, word and operands, until its own completion; only the reset input
stops it. -/
def Obligations.CommandRunsToCompletion : Prop :=
  ∀ s t : State, step s = .next t → s.status.busy = true →
    (t.status.busy = true ∧ t.latCmd = s.latCmd ∧ t.lat = s.lat) ∨
    (t.status.busy = false ∧ t.status.done = true) ∨
    (∃ rest, s.schedule = .reset :: rest)

/-- R251 (weak fairness): a BUSY block is IDLE at some point within one step more than the events still to
come, unless a step stops. That the engine moves when the schedule is used up is the model's form of the
rule (log 2). -/
def Obligations.EveryCommandCompletes : Prop :=
  ∀ s : State, s.status.busy = true →
    ∃ k, k ≤ s.schedule.length + 1 ∧
      match runFrom k s with
      | .next t => t.status.busy = false
      | .fault _ => True
      | .refused _ => True

/-- R251, U10: a CMD write and the completion of the command in progress come in either order: written first,
the word is dropped with OVR; after the completion, it is accepted. -/
def Obligations.CommandWordAndCompletionEitherOrder : Prop :=
  ∀ (s t : State) (w : Word), s.status.busy = true → engineTurn s = .next t →
    (∃ u, runFrom 2 { s with schedule := [cmdWrite w, .engine] } = .next u ∧ u.status.busy = false ∧
      u.status.ovr = true ∧ u.latCmd = s.latCmd ∧ u.mem = t.mem ∧ u.results = t.results) ∧
    (∃ u, runFrom 2 { s with schedule := [.engine, cmdWrite w] } = .next u ∧ u.status.busy = true ∧
      u.status.ovr = s.status.ovr ∧ u.latCmd = w ∧ u.lat = s.params ∧ u.mem = t.mem ∧ u.results = t.results)

/-- The host's byte accesses that stop: the register window takes no byte access (R23, a fault of the host), a
device is refused, and an address not admitted or answering with an error is a fault. That a host access to
memory is one byte, and its stops on a device and on such an address, are the model's choice (log 12). -/
def Obligations.HostMemoryAccessesStop : Prop :=
  ∀ (s : State) (a : Word) (v : Byte) (rest : List Event),
    s.schedule = .memRead a :: rest ∨ s.schedule = .memWrite a v :: rest →
    (s.platform.window.has a.toNat = true → step s = .fault .hostAccess) ∧
    (s.platform.window.has a.toNat = false → s.platform.meetsKind .device (oneByte a.toNat) = true →
      step s = .refused .hostDevice) ∧
    (s.platform.window.has a.toNat = false → s.platform.meetsKind .device (oneByte a.toNat) = false →
      s.platform.meetsKind .absent (oneByte a.toNat) = true ∨
        s.platform.meetsKind .busError (oneByte a.toNat) = true →
      step s = .fault .hostUnmapped)
end

