-- ==== Sys2Proof/Laws/Encoder.lean ====
section
/-! SUPPORT. The host's error policy (60_exceptions.md R228): no PNG after an error. -/

namespace Sys2Proof.Machine

variable {ε : Type} {compress : CompressorOptions → List Byte → Except ε (List Byte)} {o : CompressorOptions}
  {b : EncodeBuffers} {s t : State} {png : List Byte}

theorem thenUnlessErr_err {es : List Event} {k : State → EncodeOutcome ε} {u : State}
    (h : runProgram es s = .next u) (he : u.status.err = true) :
    thenUnlessErr es k s = .next (u, .error (.command u.status.errcode)) := by
  simp [thenUnlessErr, h, he]

/-- A PNG comes only from the rest of the call, after a command that completed without an error. -/
theorem thenUnlessErr_ok {es : List Event} {k : State → EncodeOutcome ε}
    (h : thenUnlessErr es k s = .next (t, .ok png)) :
    ∃ u, runProgram es s = .next u ∧ u.status.err = false ∧ k u = .next (t, .ok png) := by
  unfold thenUnlessErr at h
  split at h
  · rename_i u hu
    split at h
    · simp at h
    · rename_i he
      exact ⟨u, hu, by simpa using he, h⟩
  · cases h
  · cases h

/-- R228: a PNG is returned only when every command of the sequence completed without an error and the compressor
did not fail, and it is the whole buffer. -/
theorem encodeImage_ok (h : encodeImage compress o b s = .next (t, .ok png)) :
    b.width ≠ 0#32 ∧ b.height ≠ 0#32 ∧
      ∃ u v w z, runProgram (ihdrProgram b) s = .next u ∧ u.status.err = false ∧
        runProgram (filterProgram b) u = .next v ∧ v.status.err = false ∧
        compress o (v.mem.readBytes b.filtered.toNat v.results.outLen.toNat) = .ok z ∧
        runProgram (idatProgram b z) v = .next w ∧ w.status.err = false ∧
        runProgram (iendProgram b z.length) w = .next t ∧ t.status.err = false ∧
        png = t.mem.readBytes b.png.toNat (z.length + pngOverhead) := by
  unfold encodeImage at h
  split at h
  · simp at h
  · rename_i hd
    split at h
    · simp at h
    · obtain ⟨u, hu, hue, h⟩ := thenUnlessErr_ok h
      obtain ⟨v, hv, hve, h⟩ := thenUnlessErr_ok h
      unfold compressAndFrame at h
      split at h
      · rename_i z hz
        unfold frameCompressed at h
        split at h
        · simp at h
        · obtain ⟨w, hw, hwe, h⟩ := thenUnlessErr_ok h
          obtain ⟨x, hx, hxe, h⟩ := thenUnlessErr_ok h
          simp only [Host.Outcome.next.injEq, Prod.mk.injEq, Except.ok.injEq] at h
          obtain ⟨rfl, rfl⟩ := h
          exact ⟨fun e => hd (.inl e), fun e => hd (.inr e), u, v, w, z, hu, hue, hv, hve, hz, hw, hwe, hx, hxe, rfl⟩
      · simp at h

end Sys2Proof.Machine
end

