-- ==== Sys2Proof/Laws/Memory.lean ====
section
/-! SUPPORT. The laws of memory: a read after a write, the bytes of a block write, and that every memory
operation keeps the canonical form. -/

namespace Sys2Proof.Machine

@[simp] theorem Memory.read_nil (a : Nat) : Memory.read [] a = Config.unlistedByte := rfl

theorem Memory.read_cons (k : Nat) (v : Byte) (m : Memory) (a : Nat) :
    Memory.read ((k, v) :: m) a = if k = a then v else m.read a := rfl

/-- In a canonical tail that starts above `a`, `a` is unlisted. -/
theorem Memory.read_below {lo : Nat} {m : Memory} (h : m.wfFrom lo = true) {a : Nat} (ha : a < lo) :
    m.read a = Config.unlistedByte := by
  induction m generalizing lo with
  | nil => rfl
  | cons e rest ih =>
    obtain ⟨k, v⟩ := e
    simp only [Memory.wfFrom, Bool.and_eq_true, decide_eq_true_eq] at h
    rw [Memory.read_cons, if_neg (by omega), ih h.2 (by omega)]

theorem Memory.wfFrom_mono {lo lo' : Nat} (hle : lo' ≤ lo) {m : Memory} (h : m.wfFrom lo = true) :
    m.wfFrom lo' = true := by
  cases m with
  | nil => rfl
  | cons e rest =>
    simp only [Memory.wfFrom, Bool.and_eq_true, decide_eq_true_eq] at h ⊢
    exact ⟨⟨⟨by omega, h.1.1.2⟩, h.1.2⟩, h.2⟩

theorem Memory.read_put (a : Nat) (v : Byte) {rest : Memory} (h : rest.read a = Config.unlistedByte) (b : Nat) :
    (Memory.put a v rest).read b = if b = a then v else rest.read b := by
  unfold Memory.put
  by_cases hv : v = Config.unlistedByte
  · by_cases hb : b = a <;> simp [hv, hb, h]
  · by_cases hb : b = a
    · simp [hv, hb, Memory.read_cons]
    · simp [hv, hb, Memory.read_cons, Ne.symm hb]

theorem Memory.wfFrom_put {a : Nat} (v : Byte) (ha : a < Config.addressSpace) {rest : Memory}
    (h : rest.wfFrom (a + 1) = true) : (Memory.put a v rest).wfFrom a = true := by
  unfold Memory.put
  by_cases hv : v = Config.unlistedByte
  · simpa [hv] using Memory.wfFrom_mono (by omega) h
  · simp [hv, Memory.wfFrom, ha, h]

theorem Memory.read_write_from {lo : Nat} {m : Memory} (h : m.wfFrom lo = true) (a : Nat) (v : Byte) (b : Nat) :
    (m.write a v).read b = if b = a then v else m.read b := by
  induction m generalizing lo with
  | nil => exact Memory.read_put a v rfl b
  | cons e rest ih =>
    obtain ⟨k, w⟩ := e
    have h0 := h
    simp only [Memory.wfFrom, Bool.and_eq_true, decide_eq_true_eq] at h
    unfold Memory.write
    split
    · exact Memory.read_put a v (Memory.read_below (lo := k)
        (by simpa [Memory.wfFrom] using ⟨⟨h.1.1.2, h.1.2⟩, h.2⟩) ‹_›) b
    · split
      · rename_i heq
        subst heq
        rw [Memory.read_put a v (Memory.read_below h.2 (by omega)), Memory.read_cons]
        by_cases hb : b = a
        · simp [hb]
        · simp [hb, Ne.symm hb]
      · rename_i _ hne
        rw [Memory.read_cons, Memory.read_cons, ih h.2]
        by_cases hb : b = a
        · simp [hb, Ne.symm hne]
        · simp [hb]

theorem Memory.wfFrom_write {lo : Nat} {m : Memory} (h : m.wfFrom lo = true) {a : Nat} (hlo : lo ≤ a)
    (ha : a < Config.addressSpace) (v : Byte) : (m.write a v).wfFrom lo = true := by
  induction m generalizing lo with
  | nil => exact Memory.wfFrom_mono hlo (Memory.wfFrom_put v ha rfl)
  | cons e rest ih =>
    obtain ⟨k, w⟩ := e
    have h0 := h
    simp only [Memory.wfFrom, Bool.and_eq_true, decide_eq_true_eq] at h
    unfold Memory.write
    split
    · refine Memory.wfFrom_mono hlo (Memory.wfFrom_put v ha ?_)
      simpa [Memory.wfFrom] using ⟨⟨⟨by omega, h.1.1.2⟩, h.1.2⟩, h.2⟩
    · split
      · rename_i heq
        exact Memory.wfFrom_mono hlo (Memory.wfFrom_put v ha (heq ▸ h.2))
      · simp only [Memory.wfFrom, Bool.and_eq_true, decide_eq_true_eq]
        exact ⟨h.1, ih h.2 (by omega)⟩

/-- A write keeps the canonical form. -/
theorem Memory.wf_write {m : Memory} (h : m.wf = true) {a : Nat} (ha : a < Config.addressSpace) (v : Byte) :
    (m.write a v).wf = true := Memory.wfFrom_write h (Nat.zero_le a) ha v

/-- A read after a write: the byte written there, every other byte as before. -/
theorem Memory.read_write {m : Memory} (h : m.wf = true) (a : Nat) (v : Byte) (b : Nat) :
    (m.write a v).read b = if b = a then v else m.read b := Memory.read_write_from h a v b

/-- A block write keeps the canonical form. -/
theorem Memory.wf_writeBytes {m : Memory} (h : m.wf = true) {a : Nat} (bs : List Byte)
    (ha : a + bs.length ≤ Config.addressSpace) : (m.writeBytes a bs).wf = true := by
  induction bs generalizing m a with
  | nil => exact h
  | cons b rest ih =>
    simp only [List.length_cons] at ha
    exact ih (Memory.wf_write h (by omega) b) (by omega)

/-- A read after a block write: the listed byte inside the block, as before outside. -/
theorem Memory.read_writeBytes {m : Memory} (h : m.wf = true) {a : Nat} (bs : List Byte)
    (ha : a + bs.length ≤ Config.addressSpace) (b : Nat) :
    (m.writeBytes a bs).read b =
      if a ≤ b ∧ b < a + bs.length then bs.getD (b - a) 0#8 else m.read b := by
  induction bs generalizing m a with
  | nil => simp [Memory.writeBytes]
  | cons v rest ih =>
    simp only [List.length_cons] at ha ⊢
    rw [Memory.writeBytes, ih (Memory.wf_write h (by omega) v) (by omega), Memory.read_write h]
    by_cases hb : b = a
    · subst hb; simp
    · by_cases hin : a + 1 ≤ b ∧ b < a + 1 + rest.length
      · rw [if_pos hin, if_pos (by omega)]
        obtain ⟨d, rfl⟩ : ∃ d, b = a + 1 + d := ⟨b - (a + 1), by omega⟩
        simp [show a + 1 + d - a = d + 1 by omega]
      · rw [if_neg hin, if_neg hb, if_neg (by omega)]

@[simp] theorem Memory.length_readBytes (m : Memory) (a n : Nat) : (m.readBytes a n).length = n := by
  simp [Memory.readBytes]

/-- The `i`-th byte of a block read. -/
theorem Memory.getD_readBytes (m : Memory) (a n i : Nat) (hi : i < n) :
    (m.readBytes a n).getD i 0#8 = m.read (a + i) := by
  simp [Memory.readBytes, List.getD, hi]

/-- Two memories with the same bytes in a block give the same block read. -/
theorem Memory.readBytes_congr {m m' : Memory} {a n : Nat}
    (h : ∀ i, i < n → m.read (a + i) = m'.read (a + i)) : m.readBytes a n = m'.readBytes a n :=
  List.map_congr_left fun i hi => h i (List.mem_range.1 hi)

/-- A block read of the block just written. -/
theorem Memory.readBytes_writeBytes {m : Memory} (h : m.wf = true) {a : Nat} (bs : List Byte)
    (ha : a + bs.length ≤ Config.addressSpace) : (m.writeBytes a bs).readBytes a bs.length = bs := by
  apply List.ext_getElem (by simp)
  intro i h1 h2
  have := Memory.getD_readBytes (m.writeBytes a bs) a bs.length i h2
  rw [Memory.read_writeBytes h bs ha, if_pos (by omega)] at this
  simpa [List.getD, h1, h2] using this

end Sys2Proof.Machine
end

