-- ==== Sys2Proof/Laws/Operands.lean ====
section
/-! SUPPORT. The checks of each command pass exactly on the operands the rules call valid (R137, R168,
R173), and the small lemmas about ranges. -/

namespace Sys2Proof.Machine

theorem overlap_eq_true {s ls d ld : Nat} :
    overlap s ls d ld = true ↔ 0 < ls ∧ 0 < ld ∧ s < d + ld ∧ d < s + ls := by
  simp [overlap, and_assoc]

/-- No overlap is exactly: no common address. -/
theorem overlap_eq_false_iff {s ls d ld : Nat} : overlap s ls d ld = false ↔ rangesApart s ls d ld := by
  rw [← Bool.not_eq_true, overlap_eq_true, rangesApart]
  constructor
  · intro h a ha
    exact h ⟨by omega, by omega, by omega, by omega⟩
  · rintro h ⟨h1, h2, h3, h4⟩
    exact h (max s d) ⟨⟨by omega, by omega⟩, by omega, by omega⟩

@[simp] theorem AddrRange.has_eq_true (r : AddrRange) (a : Nat) :
    r.has a = true ↔ r.base ≤ a ∧ a < r.base + r.len := by simp [AddrRange.has]

@[simp] theorem AddrRange.leaves_eq_true (r : AddrRange) :
    r.leaves = true ↔ Config.addressSpace < r.base + r.len := by simp [AddrRange.leaves]

@[simp] theorem AddrRange.meets_empty (q : AddrRange) : AddrRange.empty.meets q = false := by
  simp [AddrRange.meets, AddrRange.empty, overlap]

@[simp] theorem Platform.meetsKind_empty (pl : Platform) (k : RegionKind) :
    pl.meetsKind k AddrRange.empty = false := by simp [Platform.meetsKind]

@[simp] theorem Platform.meetsDevice_empty (pl : Platform) : pl.meetsDevice AddrRange.empty = false := by
  simp [Platform.meetsDevice]

@[simp] theorem Platform.normal_empty (pl : Platform) : pl.normal AddrRange.empty = true := by
  simp [Platform.normal]

/-- A range that ends by 2^32 is its own clip. -/
theorem AddrRange.clip_eq_self {r : AddrRange} (h : r.base + r.len ≤ Config.addressSpace) : r.clip = r := by
  cases r
  simp only [AddrRange.clip, AddrRange.mk.injEq, true_and] at *
  omega

/-- What the clip leaves: the addresses of the range that exist. -/
theorem AddrRange.clip_has (r : AddrRange) (a : Nat) :
    r.clip.has a = true ↔ r.has a = true ∧ a < Config.addressSpace := by
  simp only [AddrRange.has_eq_true, AddrRange.clip]
  omega

theorem AddrRange.clip_end (r : AddrRange) (h : r.base ≤ Config.addressSpace) :
    r.clip.base + r.clip.len ≤ Config.addressSpace := by
  simp only [AddrRange.clip]
  omega

/-- FILTER's checks pass exactly on valid operands of the one supported format (R137). -/
theorem filterChecks_eq_none {bd ct : Nat} {p : Params} :
    filterChecks bd ct p = none ↔ (bd = 8 ∧ ct = 6) ∧ FilterOperandsValid p := by
  unfold filterChecks
  have hm : Config.maxWidth = 2 ^ 22 := rfl
  have ha : Config.addressSpace = 2 ^ 32 := rfl
  have hb : byteWidth p = 4 * p.width.toNat := rfl
  have ho : filterOutLen p = (4 * p.width.toNat + 1) * p.height.toNat := rfl
  have hr : (sourceRange p).meets (filterDestRange p) =
      overlap p.srcAddr.toNat p.srcLen.toNat p.dstAddr.toNat (filterOutLen p) := rfl
  simp only [hb, hr, ho, hm, Bool.or_eq_true, AddrRange.leaves_eq_true, ha]
  constructor
  · intro h
    split_ifs at h with h1 h2 h3 h4 h5 h6
    rw [Bool.not_eq_true, overlap_eq_false_iff] at h6
    simp only [sourceRange, filterDestRange, ho] at h5
    exact ⟨h1, by omega, by omega, by omega, not_not.1 h3, by omega, by omega, by omega, h6⟩
  · rintro ⟨hf, h⟩
    have h1 := h.width_pos; have h2 := h.width_le; have h3 := h.height_pos; have h4 := h.capacity
    have h5 := h.source_end; have h6 := h.dest_end
    rw [if_neg (not_not.2 hf), if_neg (by omega), if_neg (not_not.2 h.length_eq), if_neg (by omega),
      if_neg (by simp only [sourceRange, filterDestRange, ho]; omega),
      if_neg (by rw [Bool.not_eq_true, overlap_eq_false_iff]; exact h.apart)]

/-- FRAME's checks pass exactly on valid operands (R168, R169). -/
theorem frameChecks_eq_none {p : Params} : frameChecks p = none ↔ FrameOperandsValid p := by
  unfold frameChecks
  have ha : Config.addressSpace = 2 ^ 32 := rfl
  simp only [Bool.or_eq_true, AddrRange.leaves_eq_true, ha, Bool.and_eq_true, decide_eq_true_eq,
    sourceRange, frameDestRange, frameOutLen, AddrRange.meets]
  constructor
  · intro h
    split_ifs at h with h1 h2 h3
    refine ⟨by omega, by omega, by omega, ?_⟩
    by_cases he : p.srcAddr.toNat = p.dstAddr.toNat + 8
    · exact Or.inl he
    · right
      rw [← overlap_eq_false_iff, ← Bool.not_eq_true]
      exact fun hx => h3 ⟨hx, he⟩
  · intro h
    have h1 := h.capacity; have h2 := h.source_end; have h3 := h.dest_end
    rw [if_neg (by omega), if_neg (by omega), if_neg]
    rintro ⟨hx, he⟩
    rcases h.apart with h4 | h4
    · exact he h4
    · rw [← overlap_eq_false_iff] at h4
      simp [h4] at hx

/-- CRC's check passes exactly on valid operands (R173). -/
theorem crcChecks_eq_none {p : Params} : crcChecks p = none ↔ CrcOperandsValid p := by
  unfold crcChecks CrcOperandsValid
  have ha : Config.addressSpace = 2 ^ 32 := rfl
  simp only [AddrRange.leaves_eq_true, sourceRange, ha]
  split_ifs with h <;> simp <;> omega

end Sys2Proof.Machine
end

