-- ==== Sys2Proof/Laws/State.lean ====
section
/-! SUPPORT. Beside State: what each shared operation makes of each field, so that no proof unfolds a
record update. -/

namespace Sys2Proof.Machine

variable (s : State)

@[simp] theorem accept_irqEn (w : Word) : (accept w s).irqEn = s.irqEn := rfl
@[simp] theorem accept_status (w : Word) : (accept w s).status = s.status.accepted := rfl
@[simp] theorem accept_params (w : Word) : (accept w s).params = s.params := rfl
@[simp] theorem accept_results (w : Word) : (accept w s).results = s.results := rfl
@[simp] theorem accept_latCmd (w : Word) : (accept w s).latCmd = w := rfl
@[simp] theorem accept_lat (w : Word) : (accept w s).lat = s.params := rfl
@[simp] theorem accept_mem (w : Word) : (accept w s).mem = s.mem := rfl
@[simp] theorem accept_platform (w : Word) : (accept w s).platform = s.platform := rfl
@[simp] theorem accept_holds (w : Word) : (accept w s).holds = { reads := wordReads w s.params, writes := wordWrites w s.params } :: s.holds := rfl
@[simp] theorem accept_freeCtr (w : Word) : (accept w s).freeCtr = s.freeCtr := rfl
@[simp] theorem accept_schedule (w : Word) : (accept w s).schedule = s.schedule := rfl
@[simp] theorem accept_replies (w : Word) : (accept w s).replies = s.replies := rfl

@[simp] theorem complete_irqEn : (complete s).irqEn = s.irqEn := rfl
@[simp] theorem complete_status : (complete s).status = s.status.completed := rfl
@[simp] theorem complete_params : (complete s).params = s.params := rfl
@[simp] theorem complete_results : (complete s).results = s.results := rfl
@[simp] theorem complete_latCmd : (complete s).latCmd = s.latCmd := rfl
@[simp] theorem complete_lat : (complete s).lat = s.lat := rfl
@[simp] theorem complete_mem : (complete s).mem = s.mem := rfl
@[simp] theorem complete_platform : (complete s).platform = s.platform := rfl
@[simp] theorem complete_holds : (complete s).holds = s.holds := rfl
@[simp] theorem complete_freeCtr : (complete s).freeCtr = s.freeCtr := rfl
@[simp] theorem complete_schedule : (complete s).schedule = s.schedule := rfl
@[simp] theorem complete_replies : (complete s).replies = s.replies := rfl

@[simp] theorem raiseError_irqEn (e : ErrCode) : (raiseError e s).irqEn = s.irqEn := rfl
@[simp] theorem raiseError_status (e : ErrCode) : (raiseError e s).status = s.status.failed e := rfl
@[simp] theorem raiseError_params (e : ErrCode) : (raiseError e s).params = s.params := rfl
@[simp] theorem raiseError_results (e : ErrCode) : (raiseError e s).results = s.results := rfl
@[simp] theorem raiseError_latCmd (e : ErrCode) : (raiseError e s).latCmd = s.latCmd := rfl
@[simp] theorem raiseError_lat (e : ErrCode) : (raiseError e s).lat = s.lat := rfl
@[simp] theorem raiseError_mem (e : ErrCode) : (raiseError e s).mem = s.mem := rfl
@[simp] theorem raiseError_platform (e : ErrCode) : (raiseError e s).platform = s.platform := rfl
@[simp] theorem raiseError_holds (e : ErrCode) : (raiseError e s).holds = s.holds := rfl
@[simp] theorem raiseError_freeCtr (e : ErrCode) : (raiseError e s).freeCtr = s.freeCtr := rfl
@[simp] theorem raiseError_schedule (e : ErrCode) : (raiseError e s).schedule = s.schedule := rfl
@[simp] theorem raiseError_replies (e : ErrCode) : (raiseError e s).replies = s.replies := rfl

@[simp] theorem acknowledge_irqEn (v : Word) : (acknowledge v s).irqEn = s.irqEn := rfl
@[simp] theorem acknowledge_status (v : Word) : (acknowledge v s).status = s.status.writeOneToClear v := rfl
@[simp] theorem acknowledge_params (v : Word) : (acknowledge v s).params = s.params := rfl
@[simp] theorem acknowledge_results (v : Word) : (acknowledge v s).results = s.results := rfl
@[simp] theorem acknowledge_latCmd (v : Word) : (acknowledge v s).latCmd = s.latCmd := rfl
@[simp] theorem acknowledge_lat (v : Word) : (acknowledge v s).lat = s.lat := rfl
@[simp] theorem acknowledge_mem (v : Word) : (acknowledge v s).mem = s.mem := rfl
@[simp] theorem acknowledge_platform (v : Word) : (acknowledge v s).platform = s.platform := rfl
@[simp] theorem acknowledge_holds (v : Word) : (acknowledge v s).holds = s.holds := rfl
@[simp] theorem acknowledge_freeCtr (v : Word) : (acknowledge v s).freeCtr = s.freeCtr := rfl
@[simp] theorem acknowledge_schedule (v : Word) : (acknowledge v s).schedule = s.schedule := rfl
@[simp] theorem acknowledge_replies (v : Word) : (acknowledge v s).replies = s.replies := rfl

@[simp] theorem drawRange_irqEn (r : AddrRange) : (drawRange r s).irqEn = s.irqEn := rfl
@[simp] theorem drawRange_status (r : AddrRange) : (drawRange r s).status = s.status := rfl
@[simp] theorem drawRange_params (r : AddrRange) : (drawRange r s).params = s.params := rfl
@[simp] theorem drawRange_results (r : AddrRange) : (drawRange r s).results = s.results := rfl
@[simp] theorem drawRange_latCmd (r : AddrRange) : (drawRange r s).latCmd = s.latCmd := rfl
@[simp] theorem drawRange_lat (r : AddrRange) : (drawRange r s).lat = s.lat := rfl
@[simp] theorem drawRange_mem (r : AddrRange) : (drawRange r s).mem = s.mem.writeBytes r.clip.base (freeBytes s.freeCtr r.clip.len) := rfl
@[simp] theorem drawRange_platform (r : AddrRange) : (drawRange r s).platform = s.platform := rfl
@[simp] theorem drawRange_holds (r : AddrRange) : (drawRange r s).holds = s.holds := rfl
@[simp] theorem drawRange_freeCtr (r : AddrRange) : (drawRange r s).freeCtr = s.freeCtr + r.clip.len := rfl
@[simp] theorem drawRange_schedule (r : AddrRange) : (drawRange r s).schedule = s.schedule := rfl
@[simp] theorem drawRange_replies (r : AddrRange) : (drawRange r s).replies = s.replies := rfl

@[simp] theorem busFailure_irqEn (r : AddrRange) : (busFailure r s).irqEn = s.irqEn := rfl
@[simp] theorem busFailure_status (r : AddrRange) : (busFailure r s).status = s.status.failed .bus := rfl
@[simp] theorem busFailure_params (r : AddrRange) : (busFailure r s).params = s.params := rfl
@[simp] theorem busFailure_results (r : AddrRange) : (busFailure r s).results = s.results := rfl
@[simp] theorem busFailure_latCmd (r : AddrRange) : (busFailure r s).latCmd = s.latCmd := rfl
@[simp] theorem busFailure_lat (r : AddrRange) : (busFailure r s).lat = s.lat := rfl
@[simp] theorem busFailure_mem (r : AddrRange) : (busFailure r s).mem = (drawRange r s).mem := rfl
@[simp] theorem busFailure_platform (r : AddrRange) : (busFailure r s).platform = s.platform := rfl
@[simp] theorem busFailure_holds (r : AddrRange) : (busFailure r s).holds = s.holds := rfl
@[simp] theorem busFailure_freeCtr (r : AddrRange) : (busFailure r s).freeCtr = (drawRange r s).freeCtr := rfl
@[simp] theorem busFailure_schedule (r : AddrRange) : (busFailure r s).schedule = s.schedule := rfl
@[simp] theorem busFailure_replies (r : AddrRange) : (busFailure r s).replies = s.replies := rfl

@[simp] theorem resetInput_irqEn : (resetInput s).irqEn = false := rfl
@[simp] theorem resetInput_status : (resetInput s).status = Status.reset := rfl
@[simp] theorem resetInput_params : (resetInput s).params = Params.reset := rfl
@[simp] theorem resetInput_results : (resetInput s).results = Results.reset := rfl
@[simp] theorem resetInput_latCmd : (resetInput s).latCmd = 0#32 := rfl
@[simp] theorem resetInput_lat : (resetInput s).lat = Params.reset := rfl
@[simp] theorem resetInput_mem : (resetInput s).mem = (abandon s).mem := rfl
@[simp] theorem resetInput_platform : (resetInput s).platform = s.platform := rfl
@[simp] theorem resetInput_holds : (resetInput s).holds = [] := rfl
@[simp] theorem resetInput_freeCtr : (resetInput s).freeCtr = (abandon s).freeCtr := rfl
@[simp] theorem resetInput_schedule : (resetInput s).schedule = s.schedule := rfl
@[simp] theorem resetInput_replies : (resetInput s).replies = s.replies := rfl

@[simp] theorem hostReadWord_irqEn (off : BitVec 12) : (hostReadWord off s).irqEn = s.irqEn := rfl
@[simp] theorem hostReadWord_status (off : BitVec 12) : (hostReadWord off s).status = s.status := rfl
@[simp] theorem hostReadWord_params (off : BitVec 12) : (hostReadWord off s).params = s.params := rfl
@[simp] theorem hostReadWord_results (off : BitVec 12) : (hostReadWord off s).results = s.results := rfl
@[simp] theorem hostReadWord_latCmd (off : BitVec 12) : (hostReadWord off s).latCmd = s.latCmd := rfl
@[simp] theorem hostReadWord_lat (off : BitVec 12) : (hostReadWord off s).lat = s.lat := rfl
@[simp] theorem hostReadWord_mem (off : BitVec 12) : (hostReadWord off s).mem = s.mem := rfl
@[simp] theorem hostReadWord_platform (off : BitVec 12) : (hostReadWord off s).platform = s.platform := rfl
@[simp] theorem hostReadWord_holds (off : BitVec 12) : (hostReadWord off s).holds = (if showsCompletion off s then [] else s.holds) := rfl
@[simp] theorem hostReadWord_freeCtr (off : BitVec 12) : (hostReadWord off s).freeCtr = s.freeCtr := rfl
@[simp] theorem hostReadWord_schedule (off : BitVec 12) : (hostReadWord off s).schedule = s.schedule := rfl
@[simp] theorem hostReadWord_replies (off : BitVec 12) : (hostReadWord off s).replies = .reg off (regRead s off) :: s.replies := rfl

@[simp] theorem hostReadByte_irqEn (a : Word) : (hostReadByte a s).irqEn = s.irqEn := rfl
@[simp] theorem hostReadByte_status (a : Word) : (hostReadByte a s).status = s.status := rfl
@[simp] theorem hostReadByte_params (a : Word) : (hostReadByte a s).params = s.params := rfl
@[simp] theorem hostReadByte_results (a : Word) : (hostReadByte a s).results = s.results := rfl
@[simp] theorem hostReadByte_latCmd (a : Word) : (hostReadByte a s).latCmd = s.latCmd := rfl
@[simp] theorem hostReadByte_lat (a : Word) : (hostReadByte a s).lat = s.lat := rfl
@[simp] theorem hostReadByte_mem (a : Word) : (hostReadByte a s).mem = s.mem := rfl
@[simp] theorem hostReadByte_platform (a : Word) : (hostReadByte a s).platform = s.platform := rfl
@[simp] theorem hostReadByte_holds (a : Word) : (hostReadByte a s).holds = s.holds := rfl
@[simp] theorem hostReadByte_freeCtr (a : Word) : (hostReadByte a s).freeCtr = s.freeCtr := rfl
@[simp] theorem hostReadByte_schedule (a : Word) : (hostReadByte a s).schedule = s.schedule := rfl
@[simp] theorem hostReadByte_replies (a : Word) : (hostReadByte a s).replies = .mem a (s.mem.read a.toNat) :: s.replies := rfl

@[simp] theorem hostStoreByte_irqEn (a : Word) (v : Byte) : (hostStoreByte a v s).irqEn = s.irqEn := rfl
@[simp] theorem hostStoreByte_status (a : Word) (v : Byte) : (hostStoreByte a v s).status = s.status := rfl
@[simp] theorem hostStoreByte_params (a : Word) (v : Byte) : (hostStoreByte a v s).params = s.params := rfl
@[simp] theorem hostStoreByte_results (a : Word) (v : Byte) : (hostStoreByte a v s).results = s.results := rfl
@[simp] theorem hostStoreByte_latCmd (a : Word) (v : Byte) : (hostStoreByte a v s).latCmd = s.latCmd := rfl
@[simp] theorem hostStoreByte_lat (a : Word) (v : Byte) : (hostStoreByte a v s).lat = s.lat := rfl
@[simp] theorem hostStoreByte_mem (a : Word) (v : Byte) : (hostStoreByte a v s).mem = s.mem.write a.toNat v := rfl
@[simp] theorem hostStoreByte_platform (a : Word) (v : Byte) : (hostStoreByte a v s).platform = s.platform := rfl
@[simp] theorem hostStoreByte_holds (a : Word) (v : Byte) : (hostStoreByte a v s).holds = s.holds := rfl
@[simp] theorem hostStoreByte_freeCtr (a : Word) (v : Byte) : (hostStoreByte a v s).freeCtr = s.freeCtr := rfl
@[simp] theorem hostStoreByte_schedule (a : Word) (v : Byte) : (hostStoreByte a v s).schedule = s.schedule := rfl
@[simp] theorem hostStoreByte_replies (a : Word) (v : Byte) : (hostStoreByte a v s).replies = s.replies := rfl

@[simp] theorem acceptNow_irqEn (w : Word) : (acceptNow w s).irqEn = s.irqEn := rfl
@[simp] theorem acceptNow_status (w : Word) : (acceptNow w s).status = s.status.accepted := rfl
@[simp] theorem acceptNow_params (w : Word) : (acceptNow w s).params = s.params := rfl
@[simp] theorem acceptNow_results (w : Word) : (acceptNow w s).results = s.results := rfl
@[simp] theorem acceptNow_latCmd (w : Word) : (acceptNow w s).latCmd = w := rfl
@[simp] theorem acceptNow_lat (w : Word) : (acceptNow w s).lat = s.params := rfl
@[simp] theorem acceptNow_mem (w : Word) : (acceptNow w s).mem = s.mem := rfl
@[simp] theorem acceptNow_platform (w : Word) : (acceptNow w s).platform = s.platform := rfl
@[simp] theorem acceptNow_holds (w : Word) : (acceptNow w s).holds = (accept w s).holds := rfl
@[simp] theorem acceptNow_freeCtr (w : Word) : (acceptNow w s).freeCtr = s.freeCtr := rfl
@[simp] theorem acceptNow_schedule (w : Word) : (acceptNow w s).schedule = .engine :: s.schedule := rfl
@[simp] theorem acceptNow_replies (w : Word) : (acceptNow w s).replies = s.replies := rfl

@[simp] theorem filterDone_irqEn (sel : FilterSel) : (filterDone sel s).irqEn = s.irqEn := rfl
@[simp] theorem filterDone_status (sel : FilterSel) : (filterDone sel s).status = s.status.completed := rfl
@[simp] theorem filterDone_params (sel : FilterSel) : (filterDone sel s).params = s.params := rfl
@[simp] theorem filterDone_results (sel : FilterSel) : (filterDone sel s).results = filterResults sel s := rfl
@[simp] theorem filterDone_latCmd (sel : FilterSel) : (filterDone sel s).latCmd = s.latCmd := rfl
@[simp] theorem filterDone_lat (sel : FilterSel) : (filterDone sel s).lat = s.lat := rfl
@[simp] theorem filterDone_mem (sel : FilterSel) : (filterDone sel s).mem = s.mem.writeBytes s.lat.dstAddr.toNat
      (filteredBuffer sel s.mem s.lat.srcAddr.toNat (byteWidth s.lat) s.lat.height.toNat) := rfl
@[simp] theorem filterDone_platform (sel : FilterSel) : (filterDone sel s).platform = s.platform := rfl
@[simp] theorem filterDone_holds (sel : FilterSel) : (filterDone sel s).holds = s.holds := rfl
@[simp] theorem filterDone_freeCtr (sel : FilterSel) : (filterDone sel s).freeCtr = s.freeCtr := rfl
@[simp] theorem filterDone_schedule (sel : FilterSel) : (filterDone sel s).schedule = s.schedule := rfl
@[simp] theorem filterDone_replies (sel : FilterSel) : (filterDone sel s).replies = s.replies := rfl

@[simp] theorem frameDone_irqEn : (frameDone s).irqEn = s.irqEn := rfl
@[simp] theorem frameDone_status : (frameDone s).status = s.status.completed := rfl
@[simp] theorem frameDone_params : (frameDone s).params = s.params := rfl
@[simp] theorem frameDone_results : (frameDone s).results = { s.results with
      crcResult := chunkCrc s.lat.chunkType (sourceBytes s)
      outLen := BitVec.ofNat 32 (frameOutLen s.lat) } := rfl
@[simp] theorem frameDone_latCmd : (frameDone s).latCmd = s.latCmd := rfl
@[simp] theorem frameDone_lat : (frameDone s).lat = s.lat := rfl
@[simp] theorem frameDone_mem : (frameDone s).mem = s.mem.writeBytes s.lat.dstAddr.toNat (chunkBytes s.lat.chunkType (sourceBytes s)) := rfl
@[simp] theorem frameDone_platform : (frameDone s).platform = s.platform := rfl
@[simp] theorem frameDone_holds : (frameDone s).holds = s.holds := rfl
@[simp] theorem frameDone_freeCtr : (frameDone s).freeCtr = s.freeCtr := rfl
@[simp] theorem frameDone_schedule : (frameDone s).schedule = s.schedule := rfl
@[simp] theorem frameDone_replies : (frameDone s).replies = s.replies := rfl

@[simp] theorem crcDone_irqEn : (crcDone s).irqEn = s.irqEn := rfl
@[simp] theorem crcDone_status : (crcDone s).status = s.status.completed := rfl
@[simp] theorem crcDone_params : (crcDone s).params = s.params := rfl
@[simp] theorem crcDone_results : (crcDone s).results = { s.results with crcResult := crc32 s.lat.crcSeed (sourceBytes s) } := rfl
@[simp] theorem crcDone_latCmd : (crcDone s).latCmd = s.latCmd := rfl
@[simp] theorem crcDone_lat : (crcDone s).lat = s.lat := rfl
@[simp] theorem crcDone_mem : (crcDone s).mem = s.mem := rfl
@[simp] theorem crcDone_platform : (crcDone s).platform = s.platform := rfl
@[simp] theorem crcDone_holds : (crcDone s).holds = s.holds := rfl
@[simp] theorem crcDone_freeCtr : (crcDone s).freeCtr = s.freeCtr := rfl
@[simp] theorem crcDone_schedule : (crcDone s).schedule = s.schedule := rfl
@[simp] theorem crcDone_replies : (crcDone s).replies = s.replies := rfl

variable (st : Status)

@[simp] theorem Status.accepted_busy : st.accepted.busy = true := rfl
@[simp] theorem Status.accepted_done : st.accepted.done = false := rfl
@[simp] theorem Status.accepted_err : st.accepted.err = false := rfl
@[simp] theorem Status.accepted_ovr : st.accepted.ovr = st.ovr := rfl
@[simp] theorem Status.accepted_errcode : st.accepted.errcode = 0#4 := rfl

@[simp] theorem Status.dropped_busy : st.dropped.busy = st.busy := rfl
@[simp] theorem Status.dropped_done : st.dropped.done = st.done := rfl
@[simp] theorem Status.dropped_err : st.dropped.err = st.err := rfl
@[simp] theorem Status.dropped_ovr : st.dropped.ovr = true := rfl
@[simp] theorem Status.dropped_errcode : st.dropped.errcode = st.errcode := rfl

@[simp] theorem Status.completed_busy : st.completed.busy = false := rfl
@[simp] theorem Status.completed_done : st.completed.done = true := rfl
@[simp] theorem Status.completed_err : st.completed.err = false := rfl
@[simp] theorem Status.completed_ovr : st.completed.ovr = st.ovr := rfl
@[simp] theorem Status.completed_errcode : st.completed.errcode = 0#4 := rfl

@[simp] theorem Status.failed_busy (e : ErrCode) : (st.failed e).busy = false := rfl
@[simp] theorem Status.failed_done (e : ErrCode) : (st.failed e).done = true := rfl
@[simp] theorem Status.failed_err (e : ErrCode) : (st.failed e).err = true := rfl
@[simp] theorem Status.failed_ovr (e : ErrCode) : (st.failed e).ovr = st.ovr := rfl
@[simp] theorem Status.failed_errcode (e : ErrCode) : (st.failed e).errcode = e.code := rfl

@[simp] theorem Status.writeOneToClear_busy (v : Word) : (st.writeOneToClear v).busy = st.busy := rfl
@[simp] theorem Status.writeOneToClear_done (v : Word) : (st.writeOneToClear v).done = (st.done && !v.getLsbD 1) := rfl
@[simp] theorem Status.writeOneToClear_err (v : Word) : (st.writeOneToClear v).err = (st.err && !v.getLsbD 2) := rfl
@[simp] theorem Status.writeOneToClear_ovr (v : Word) : (st.writeOneToClear v).ovr = (st.ovr && !v.getLsbD 3) := rfl
@[simp] theorem Status.writeOneToClear_errcode (v : Word) : (st.writeOneToClear v).errcode = (if v.getLsbD 2 then 0#4 else st.errcode) := rfl

end Sys2Proof.Machine
end

