-- ==== Sys2Proof/Laws/Outcomes.lean ====
section
/-! SUPPORT. What each shared operation and each command can answer, said once: cited instead of unfolding
the operation. -/

namespace Sys2Proof.Machine

/-- The checks a command makes of its latched operands (R137, R168, R173); NOP makes none. -/
def checksOf (i : Instr) (p : Params) : Option ErrCode :=
  match i with
  | .nop => none
  | .filterNone bd ct => filterChecks bd ct p
  | .filterSub bd ct => filterChecks bd ct p
  | .filterUp bd ct => filterChecks bd ct p
  | .filterAvg bd ct => filterChecks bd ct p
  | .filterPaeth bd ct => filterChecks bd ct p
  | .filterAuto bd ct => filterChecks bd ct p
  | .frame => frameChecks p
  | .crc => crcChecks p

/-- The effect of a command that passed its checks and accesses normal memory. -/
def effectOf (i : Instr) : State → State :=
  match i with
  | .nop => complete
  | .filterNone _ _ => filterDone (.forced .none)
  | .filterSub _ _ => filterDone (.forced .sub)
  | .filterUp _ _ => filterDone (.forced .up)
  | .filterAvg _ _ => filterDone (.forced .avg)
  | .filterPaeth _ _ => filterDone (.forced .paeth)
  | .filterAuto _ _ => filterDone .auto
  | .frame => frameDone
  | .crc => crcDone

theorem Platform.normal_iff (pl : Platform) (r : AddrRange) :
    pl.normal r = true ↔
      pl.meetsDevice r = false ∧ pl.meetsKind .absent r = false ∧ pl.meetsKind .busError r = false := by
  simp [Platform.normal, and_assoc]

/-- In normal memory a command has its effect. -/
theorem guardAccess_normal {reads writes : AddrRange} {effect : State → State} {s : State}
    (hr : s.platform.normal reads = true) (hw : s.platform.normal writes = true) :
    guardAccess reads writes effect s = .next (effect s) := by
  rw [Platform.normal_iff] at hr hw
  simp [guardAccess, hr, hw]

/-- All that `guardAccess` can answer with a next state. -/
theorem guardAccess_next {reads writes : AddrRange} {effect : State → State} {s t : State}
    (h : guardAccess reads writes effect s = .next t) : t = effect s ∨ t = busFailure writes s := by
  unfold guardAccess at h
  split_ifs at h <;> simp_all

/-- All that `runChecked` can answer with a next state. -/
theorem runChecked_next {failed : Option ErrCode} {reads writes : AddrRange} {effect : State → State}
    {s t : State} (h : runChecked failed reads writes effect s = .next t) :
    (∃ e, failed = some e ∧ t = raiseError e s) ∨
      (failed = none ∧ (t = effect s ∨ t = busFailure writes s)) := by
  cases failed with
  | some e => exact .inl ⟨e, rfl, by simpa [runChecked, eq_comm] using h⟩
  | none => exact .inr ⟨rfl, guardAccess_next h⟩

/-- Every command is one check-then-access run over its own checks, ranges and effect. -/
theorem exec_eq_runChecked (i : Instr) (s : State) :
    exec i s = runChecked (checksOf i s.lat) (readRange i s.lat) (writeRange i s.lat) (effectOf i) s := by
  cases i
  case nop => exact (guardAccess_normal (by simp [readRange]) (by simp [writeRange])).symm
  all_goals rfl

/-- No command's own checks raise ERR_BUS. -/
theorem checksOf_ne_bus (i : Instr) (p : Params) : checksOf i p ≠ some .bus := by
  have hf : ∀ bd ct, filterChecks bd ct p ≠ some .bus := by
    intro bd ct h
    unfold filterChecks at h
    split_ifs at h <;> simp at h
  have hr : frameChecks p ≠ some .bus := by
    intro h
    unfold frameChecks at h
    split_ifs at h <;> simp at h
  have hc : crcChecks p ≠ some .bus := by
    intro h
    unfold crcChecks at h
    split_ifs at h
    simp at h
  cases i <;> simp only [checksOf] <;> first | exact hf _ _ | exact hr | exact hc | exact nofun

/-- All that a command can answer with a next state: an error of its checks, ERR_BUS, or its effect. -/
theorem exec_next {i : Instr} {s t : State} (h : exec i s = .next t) :
    (∃ e, checksOf i s.lat = some e ∧ t = raiseError e s) ∨
      (checksOf i s.lat = none ∧ (t = effectOf i s ∨ t = busFailure (writeRange i s.lat) s)) :=
  runChecked_next (exec_eq_runChecked i s ▸ h)

/-- A command that passes its checks has its effect in normal memory. -/
theorem exec_valid {i : Instr} {s : State} (hc : checksOf i s.lat = none)
    (hn : commandMemoryNormal i s = true) : exec i s = .next (effectOf i s) := by
  simp only [commandMemoryNormal, Bool.and_eq_true] at hn
  rw [exec_eq_runChecked, hc]
  exact guardAccess_normal hn.1 hn.2

/-- `freeBytes k n` is n bytes. -/
theorem length_freeBytes (k n : Nat) : (freeBytes k n).length = n := by simp [freeBytes]

/-- Drawing a range keeps the canonical form. -/
theorem wf_drawRange {s : State} (h : s.mem.wf = true) {r : AddrRange} (hr : r.base ≤ Config.addressSpace) :
    (drawRange r s).mem.wf = true := by
  rw [drawRange_mem]
  exact Memory.wf_writeBytes h _ (by rw [length_freeBytes]; exact AddrRange.clip_end r hr)

/-- Drawing a range leaves every byte outside it. -/
theorem read_drawRange_outside {s : State} (h : s.mem.wf = true) {r : AddrRange}
    (hr : r.base ≤ Config.addressSpace) {a : Nat} (ha : r.has a = false) :
    (drawRange r s).mem.read a = s.mem.read a := by
  rw [drawRange_mem, Memory.read_writeBytes h _ (by rw [length_freeBytes]; exact AddrRange.clip_end r hr),
    if_neg]
  rw [length_freeBytes]
  intro hx
  have := (AddrRange.clip_has r a).1 ((AddrRange.has_eq_true _ _).2 hx)
  simp [this.1] at ha

/-- Every range of a command starts inside the address space. -/
theorem writeRange_base_le (i : Instr) (p : Params) : (writeRange i p).base ≤ Config.addressSpace := by
  have h := p.dstAddr.isLt
  have ha : Config.addressSpace = 2 ^ 32 := rfl
  cases i <;> simp only [writeRange, filterDestRange, frameDestRange, AddrRange.empty] <;> omega

theorem wordWrites_base_le (w : Word) (p : Params) : (wordWrites w p).base ≤ Config.addressSpace := by
  unfold wordWrites
  split
  · exact writeRange_base_le _ _
  · simp [AddrRange.empty]

end Sys2Proof.Machine
end

