-- ==== Sys2Proof/Laws/Framer.lean ====
section
/-! SUPPORT. The sizes of the Framer's chunk and the small lemmas of the CRC. -/

namespace Sys2Proof.Machine

@[simp] theorem length_be32 (v : Word) : (be32 v).length = 4 := rfl

/-- A chunk is its payload and 12 bytes more (R162). -/
@[simp] theorem length_chunkBytes (tag : Word) (payload : List Byte) :
    (chunkBytes tag payload).length = payload.length + 12 := by
  simp [chunkBytes]
  omega

@[simp] theorem length_sourceBytes (s : State) : (sourceBytes s).length = s.lat.srcLen.toNat := by
  simp [sourceBytes]

/-- The byte read back after a successful FRAME. -/
theorem read_frameDone {s : State} (h : s.mem.wf = true) (hv : FrameOperandsValid s.lat) (a : Nat) :
    (frameDone s).mem.read a =
      if s.lat.dstAddr.toNat ≤ a ∧ a < s.lat.dstAddr.toNat + frameOutLen s.lat then
        (chunkBytes s.lat.chunkType (sourceBytes s)).getD (a - s.lat.dstAddr.toNat) 0#8
      else s.mem.read a := by
  have he : s.lat.dstAddr.toNat + frameOutLen s.lat ≤ Config.addressSpace := hv.dest_end
  rw [frameDone_mem, Memory.read_writeBytes h _ (by simpa [frameOutLen] using he), length_chunkBytes, length_sourceBytes]
  rfl

/-- Inverting all 32 bits twice is nothing. -/
theorem xor_ones_twice (c : Word) : c ^^^ 0xFFFFFFFF#32 ^^^ 0xFFFFFFFF#32 = c := by
  rw [BitVec.xor_assoc, BitVec.xor_self, BitVec.xor_zero]

end Sys2Proof.Machine
end

