-- ==== Sys2Proof/Laws/PerInstr.lean ====
section
/-! SUPPORT. Statements made per instruction. Family `OpcodeRow`: the word of a well-formed instruction lies in
its row of the opcode map, `(w AND mask) == match` (30_encoding.md section 4). -/

namespace Sys2Proof.Laws

/-- The word of the instruction lies in its own row of the opcode map. -/
def OpcodeRow.Statement (i : Instr) : Prop := WellFormed i = true → encode i &&& tableMask i = tableMatch i

/-- A word made of a low byte below 2^8 and two middle bytes, under the format-F mask, is its low byte. -/
theorem OpcodeRow.and_mask {low mid : Nat} (hl : low < 2 ^ 8) (hm : mid < 2 ^ 16) :
    (2 ^ 8 * mid + low) &&& 0xFF0000FF = low := by
  apply Nat.eq_of_testBit_eq
  intro k
  have hmask : (0xFF0000FF : Nat) = 2 ^ 8 * (2 ^ 16 * (2 ^ 8 - 1) + 0) + (2 ^ 8 - 1) := by norm_num
  rw [Nat.testBit_and, hmask, Nat.testBit_two_pow_mul_add _ hl, Nat.testBit_two_pow_mul_add _ (by norm_num)]
  by_cases hk : k < 8
  · rw [if_pos hk, if_pos hk, Nat.testBit_two_pow_sub_one]
    simp [hk]
  · rw [if_neg hk, if_neg hk, Nat.testBit_two_pow_mul_add _ (by norm_num)]
    have hlow : low.testBit k = false :=
      Nat.testBit_lt_two_pow (lt_of_lt_of_le hl (Nat.pow_le_pow_right (by norm_num) (by omega)))
    by_cases hk' : k - 8 < 16
    · simp [hk', hlow]
    · have : mid.testBit (k - 8) = false :=
        Nat.testBit_lt_two_pow (lt_of_lt_of_le hm (Nat.pow_le_pow_right (by norm_num) (by omega)))
      simp [this, hlow]

/-- The format-F words of one FSEL are one row. -/
theorem OpcodeRow.filterWord_mask {fsel bd ct : Nat} (hf : fsel < 8) (h : formatFieldsFit bd ct = true) :
    filterWord fsel bd ct &&& 0xFF0000FF#32 = BitVec.ofNat 32 (1 + 16 * fsel) := by
  simp only [formatFieldsFit, Bool.and_eq_true, decide_eq_true_eq] at h
  apply BitVec.eq_of_toNat_eq
  have hw : (filterWord fsel bd ct).toNat = 2 ^ 8 * (bd + 256 * ct) + (1 + 16 * fsel) := by
    simp only [filterWord, BitVec.toNat_ofNat, Nat.mod_eq_of_lt h.1, Nat.mod_eq_of_lt h.2]
    omega
  rw [BitVec.toNat_and, hw, BitVec.toNat_ofNat, BitVec.toNat_ofNat, Nat.mod_eq_of_lt (a := 0xFF0000FF) (by norm_num),
    OpcodeRow.and_mask (by omega) (by omega), Nat.mod_eq_of_lt (by omega)]

theorem OpcodeRow.nop : OpcodeRow.Statement .nop := fun _ => by decide

theorem OpcodeRow.filterNone (bd ct : Nat) : OpcodeRow.Statement (.filterNone bd ct) :=
  fun h => OpcodeRow.filterWord_mask (by decide) h

theorem OpcodeRow.filterSub (bd ct : Nat) : OpcodeRow.Statement (.filterSub bd ct) :=
  fun h => OpcodeRow.filterWord_mask (by decide) h

theorem OpcodeRow.filterUp (bd ct : Nat) : OpcodeRow.Statement (.filterUp bd ct) :=
  fun h => OpcodeRow.filterWord_mask (by decide) h

theorem OpcodeRow.filterAvg (bd ct : Nat) : OpcodeRow.Statement (.filterAvg bd ct) :=
  fun h => OpcodeRow.filterWord_mask (by decide) h

theorem OpcodeRow.filterPaeth (bd ct : Nat) : OpcodeRow.Statement (.filterPaeth bd ct) :=
  fun h => OpcodeRow.filterWord_mask (by decide) h

theorem OpcodeRow.filterAuto (bd ct : Nat) : OpcodeRow.Statement (.filterAuto bd ct) :=
  fun h => OpcodeRow.filterWord_mask (by decide) h

theorem OpcodeRow.frame : OpcodeRow.Statement .frame := fun _ => by decide

theorem OpcodeRow.crc : OpcodeRow.Statement .crc := fun _ => by decide

end Sys2Proof.Laws
end

