-- ==== Sys2Proof/Laws/Predictor.lean ====
section
/-! SUPPORT. The sizes of the Predictor's rows and output, and the small lemmas of the transforms. -/

namespace Sys2Proof.Machine

@[simp] theorem length_filterRow (t : FilterType) (row prev : List Byte) :
    (filterRow t row prev).length = row.length := by simp [filterRow]

@[simp] theorem length_encodeRow (sel : FilterSel) (row prev : List Byte) :
    (encodeRow sel row prev).length = row.length + 1 := by simp [encodeRow]

@[simp] theorem length_encodeRows (sel : FilterSel) (prev : List Byte) (rows : List (List Byte)) :
    (encodeRows sel prev rows).length = rows.length := by
  induction rows generalizing prev with
  | nil => rfl
  | cons row rest ih => simp [encodeRows, ih]

@[simp] theorem length_rawRow (m : Memory) (src bw y : Nat) : (rawRow m src bw y).length = bw := by
  simp [rawRow]

@[simp] theorem length_zeroRow (bw : Nat) : (zeroRow bw).length = bw := by simp [zeroRow]

@[simp] theorem length_prevRow (m : Memory) (src bw y : Nat) : (prevRow m src bw y).length = bw := by
  cases y <;> simp [prevRow]

@[simp] theorem length_rawRows (m : Memory) (src bw h : Nat) : (rawRows m src bw h).length = h := by
  simp [rawRows]

/-- Rows of one width give an output of that width and one more byte each. -/
theorem length_flatten_encodeRows (sel : FilterSel) {bw : Nat} (prev : List Byte) {rows : List (List Byte)}
    (h : ∀ row ∈ rows, row.length = bw) : (encodeRows sel prev rows).flatten.length = (bw + 1) * rows.length := by
  induction rows generalizing prev with
  | nil => simp [encodeRows]
  | cons row rest ih =>
    simp only [encodeRows, List.flatten_cons, List.length_append, length_encodeRow, List.length_cons,
      h row (by simp), ih row fun r hr => h r (by simp [hr])]
    ring

/-- The FilteredBuffer has `(bw + 1) * h` bytes (R134). -/
@[simp] theorem length_filteredBuffer (sel : FilterSel) (m : Memory) (src bw h : Nat) :
    (filteredBuffer sel m src bw h).length = (bw + 1) * h := by
  rw [filteredBuffer, length_flatten_encodeRows (bw := bw), length_rawRows]
  intro row hr
  obtain ⟨y, -, rfl⟩ := List.mem_map.1 hr
  exact length_rawRow ..

theorem byteAt_lt (row : List Byte) (x : Nat) : byteAt row x < 256 := (row.getD x 0#8).isLt

theorem leftOf_lt (row : List Byte) (x : Nat) : leftOf row x < 256 := by
  unfold leftOf
  split
  · exact byteAt_lt ..
  · omega

theorem aboveOf_lt (prev : List Byte) (x : Nat) : aboveOf prev x < 256 := byteAt_lt ..

theorem upperLeftOf_lt (prev : List Byte) (x : Nat) : upperLeftOf prev x < 256 := leftOf_lt prev x

/-- The FILTER instruction of a selection runs `execFilter` with that selection. -/
theorem exec_filterInstr (sel : FilterSel) (bd ct : Nat) (s : State) :
    exec (filterInstr sel bd ct) s = execFilter sel bd ct s := by
  cases sel with
  | auto => rfl
  | forced t => cases t <;> rfl

theorem checksOf_filterInstr (sel : FilterSel) (bd ct : Nat) (p : Params) :
    checksOf (filterInstr sel bd ct) p = filterChecks bd ct p := by
  cases sel with
  | auto => rfl
  | forced t => cases t <;> rfl

theorem readRange_filterInstr (sel : FilterSel) (bd ct : Nat) (p : Params) :
    readRange (filterInstr sel bd ct) p = sourceRange p := by
  cases sel with
  | auto => rfl
  | forced t => cases t <;> rfl

theorem writeRange_filterInstr (sel : FilterSel) (bd ct : Nat) (p : Params) :
    writeRange (filterInstr sel bd ct) p = filterDestRange p := by
  cases sel with
  | auto => rfl
  | forced t => cases t <;> rfl

/-- The byte read back after a successful FILTER. -/
theorem read_filterDone {sel : FilterSel} {s : State} (h : s.mem.wf = true) (hv : FilterOperandsValid s.lat)
    (a : Nat) :
    (filterDone sel s).mem.read a =
      if s.lat.dstAddr.toNat ≤ a ∧ a < s.lat.dstAddr.toNat + filterOutLen s.lat then
        (filteredBuffer sel s.mem s.lat.srcAddr.toNat (byteWidth s.lat) s.lat.height.toNat).getD
          (a - s.lat.dstAddr.toNat) 0#8
      else s.mem.read a := by
  have he : s.lat.dstAddr.toNat + filterOutLen s.lat ≤ Config.addressSpace := hv.dest_end
  rw [filterDone_mem, Memory.read_writeBytes h _ (by rw [length_filteredBuffer]; exact he), length_filteredBuffer]
  rfl

end Sys2Proof.Machine
end

