-- ==== Sys2Proof/Laws/Registers.lean ====
section
/-! SUPPORT. The register map: every register stands at its own offset, and nothing stands from 0x050 on. -/

namespace Sys2Proof.Machine

@[simp] theorem Reg.ofOffset_offset (r : Reg) : Reg.ofOffset r.offset = some r := by
  cases r <;> decide

theorem Reg.offset_lt (r : Reg) : r.offset.toNat < 0x50 := by cases r <;> decide

theorem Reg.offset_aligned (r : Reg) : r.offset.toNat % 4 = 0 := by cases r <;> decide

/-- Offsets 0x050 .. 0xFFC hold no register (R24). -/
theorem Reg.ofOffset_reserved {off : BitVec 12} (h : 0x50 ≤ off.toNat) : Reg.ofOffset off = none := by
  refine List.find?_eq_none.2 fun r _ hr => ?_
  have := Reg.offset_lt r
  rw [beq_iff_eq] at hr
  subst hr
  omega

@[simp] theorem regRead_offset (s : State) (r : Reg) : regRead s r.offset = readReg s r := by
  simp [regRead]

@[simp] theorem regWrite_offset (r : Reg) (v : Word) (s : State) : regWrite r.offset v s = writeReg r v s := by
  simp [regWrite]

@[simp] theorem alignedWord_offset (r : Reg) : alignedWord r.offset .word = true := by
  simp [alignedWord, Reg.offset_aligned]

/-- An aligned word access below 0x050 names a register. -/
theorem Reg.ofOffset_aligned {off : BitVec 12} (h : off.toNat < 0x50) (ha : off.toNat % 4 = 0) :
    ∃ r, Reg.ofOffset off = some r ∧ r.offset = off := by
  have key : ∀ k < 20, ∃ r, Reg.ofOffset (BitVec.ofNat 12 (4 * k)) = some r ∧ r.offset = BitVec.ofNat 12 (4 * k) := by
    decide
  obtain ⟨r, hr⟩ := key (off.toNat / 4) (by omega)
  have : BitVec.ofNat 12 (4 * (off.toNat / 4)) = off := by
    apply BitVec.eq_of_toNat_eq
    rw [BitVec.toNat_ofNat]
    omega
  exact ⟨r, this ▸ hr⟩

/-- A register write leaves the latches, memory, the platform and the result registers; only CMD touches
the latches (R22, R49). -/
theorem writeReg_frame (r : Reg) (v : Word) (s : State) :
    (writeReg r v s).mem = s.mem ∧ (writeReg r v s).results = s.results ∧
      (writeReg r v s).platform = s.platform ∧ (writeReg r v s).freeCtr = s.freeCtr ∧
      (writeReg r v s).schedule = s.schedule ∧ (writeReg r v s).replies = s.replies ∧
      (r ≠ .cmd → (writeReg r v s).latCmd = s.latCmd ∧ (writeReg r v s).lat = s.lat ∧
        (writeReg r v s).holds = s.holds ∧ (writeReg r v s).status.busy = s.status.busy) := by
  cases r <;> simp [writeReg, writeCmd]
  split <;> simp

end Sys2Proof.Machine
end

