-- ==== Sys2Proof/Laws/Step.lean ====
section
/-! SUPPORT. What one step can do, said once. -/

namespace Sys2Proof.Machine

theorem step_nil {s : State} (h : s.schedule = []) : step s = engineTurn s := by
  simp [step, nextTurn, h]

theorem step_cons {s : State} {e : Event} {rest : List Event} (h : s.schedule = e :: rest) :
    step s = runEvent e { s with schedule := rest } := by
  simp [step, nextTurn, h]

/-- The engine's turn: nothing while IDLE; while BUSY an error completion, ERR_BUS or the effect. -/
theorem engineTurn_next {s t : State} (h : engineTurn s = .next t) :
    (s.status.busy = false ∧ t = s) ∨
      (s.status.busy = true ∧
        ((∃ e, t = raiseError e s) ∨
          ∃ i, decode s.latCmd = .ok i ∧ checksOf i s.lat = none ∧
            (t = effectOf i s ∨ t = busFailure (writeRange i s.lat) s))) := by
  unfold engineTurn at h
  split at h
  · rename_i hb
    refine .inr ⟨hb, ?_⟩
    unfold runLatched at h
    split at h
    · rename_i i hi
      rcases exec_next h with ⟨e, -, rfl⟩ | ⟨hc, ht⟩
      · exact .inl ⟨e, rfl⟩
      · exact .inr ⟨i, hi, hc, ht⟩
    · exact .inl ⟨_, by simpa [eq_comm] using h⟩
  · rename_i hb
    exact .inl ⟨by simpa using hb, by simpa [eq_comm] using h⟩

/-- One byte of normal memory is in no window, on no device, and answers without an error. -/
theorem Platform.normal_oneByte {pl : Platform} {a : Nat} (h : pl.normal (oneByte a) = true) :
    pl.window.has a = false ∧ pl.meetsKind .device (oneByte a) = false ∧
      pl.meetsKind .absent (oneByte a) = false ∧ pl.meetsKind .busError (oneByte a) = false := by
  simp only [Platform.normal, Platform.meetsDevice, Bool.and_eq_true, Bool.not_eq_true', Bool.or_eq_false_iff] at h
  refine ⟨?_, h.1.1.2, h.1.2, h.2⟩
  rw [← Bool.not_eq_true]
  intro hw
  simp only [AddrRange.has, Bool.and_eq_true, decide_eq_true_eq] at hw
  have hm : (oneByte a).meets pl.window = true := by
    change overlap a 1 _ _ = true
    simp only [overlap, Bool.and_eq_true, decide_eq_true_eq]
    omega
  simp [hm] at h

/-- On normal memory only the hazard rule stops a host access. -/
theorem guardHostByte_normal {a : Nat} {hazard : Bool} {effect : State → State} {s : State}
    (h : s.platform.normal (oneByte a) = true) :
    guardHostByte a hazard effect s = if hazard then .fault .hazard else .next (effect s) := by
  obtain ⟨hw, hd, ha, hb⟩ := Platform.normal_oneByte h
  simp [guardHostByte, hw, hd, ha, hb]

/-- A host memory access that answers a next state has its effect, and no hazard rule forbids it. -/
theorem guardHostByte_next {a : Nat} {hazard : Bool} {effect : State → State} {s t : State}
    (h : guardHostByte a hazard effect s = .next t) : t = effect s ∧ hazard = false := by
  unfold guardHostByte at h
  split_ifs at h
  simp_all

/-- All that an event can answer with a next state. -/
theorem runEvent_next {e : Event} {s t : State} (h : runEvent e s = .next t) :
    (e = .engine ∧ engineTurn s = .next t) ∨
      (∃ off, e = .regRead off .word ∧ t = hostReadWord off s) ∨
      (∃ off v, e = .regWrite off .word v ∧ t = regWrite off v s) ∨
      (∃ a, e = .memRead a ∧ t = hostReadByte a s ∧ readHazard a.toNat s = false) ∨
      (∃ a v, e = .memWrite a v ∧ t = hostStoreByte a v s ∧ writeHazard a.toNat s = false) ∨
      (e = .wait ∧ s.status.busy = true ∧ engineTurn { s with schedule := .wait :: s.schedule } = .next t) ∨
      (e = .wait ∧ s.status.busy = false ∧ t = hostReadWord Reg.status.offset s) ∨
      (e = .reset ∧ t = resetInput s) := by
  cases e with
  | engine => exact .inl ⟨rfl, h⟩
  | regRead off size =>
    simp only [runEvent, hostRegRead] at h
    split_ifs at h with ha
    simp only [alignedWord, Bool.and_eq_true, decide_eq_true_eq] at ha
    simp_all
  | regWrite off size v =>
    simp only [runEvent, hostRegWrite] at h
    split_ifs at h with ha
    simp only [alignedWord, Bool.and_eq_true, decide_eq_true_eq] at ha
    simp_all
  | memRead a =>
    obtain ⟨rfl, hz⟩ := guardHostByte_next h
    simp_all
  | memWrite a v =>
    obtain ⟨rfl, hz⟩ := guardHostByte_next h
    simp_all
  | wait =>
    simp only [runEvent, hostWait] at h
    split_ifs at h with hb
    · simp [hb, h]
    · simp_all
  | reset => simp_all [runEvent]

end Sys2Proof.Machine
end

