-- ==== Sys2Proof/Tests/Slice0.lean ====
section
/-! SUPPORT. Tests on the vectors of 95_test_vectors.md, decoding of words written out from the opcode map,
the WellFormed smoke tests, and for each obligation with hypotheses a state and operands that meet them. -/

namespace Sys2Proof.Tests

open Sys2Proof.Machine

-- One test after the other: run side by side, their threads' stacks alone pass the memory limit.
set_option Elab.async false

/-- The next state of an outcome, if it is one. -/
def nextOf (o : Host.Outcome State Fault Refusal) : Option State :=
  match o with
  | .next s => some s
  | .fault _ => none
  | .refused _ => none

/-- The refusal of an outcome, if it is one. -/
def refusalOf (o : Host.Outcome State Fault Refusal) : Option Refusal :=
  match o with
  | .refused r => some r
  | .next _ => none
  | .fault _ => none

/-- The fault of an outcome, if it is one. -/
def faultOf (o : Host.Outcome State Fault Refusal) : Option Fault :=
  match o with
  | .fault f => some f
  | .next _ => none
  | .refused _ => none

/-- Parameter registers: source, its length, destination, its capacity, width, height. -/
def operands (src len dst cap w h : Nat) : Params :=
  { Params.reset with
    srcAddr := BitVec.ofNat 32 src, srcLen := BitVec.ofNat 32 len, dstAddr := BitVec.ofNat 32 dst,
    dstCap := BitVec.ofNat 32 cap, width := BitVec.ofNat 32 w, height := BitVec.ofNat 32 h }

/-- An IDLE block with these parameter registers and bytes at `a`. -/
def idle (p : Params) (a : Nat) (bytes : List Byte) : State :=
  { State.reset with params := p, mem := Memory.writeBytes [] a bytes }

/-- The same block BUSY with a command word accepted. -/
def busy (w : Word) (p : Params) (a : Nat) (bytes : List Byte) : State := accept w (idle p a bytes)

/-- Image E of 40_predictor.md section 6, 2 by 2. -/
def imageE : List Byte :=
  [0x0A#8, 0x14#8, 0x1E#8, 0x28#8, 0x05#8, 0x19#8, 0x23#8, 0xFF#8,
    0x0C#8, 0x12#8, 0x1E#8, 0xC8#8, 0x00#8, 0xFF#8, 0x80#8, 0x01#8]

/-- The operands of image E (95_test_vectors.md, conventions). -/
def operandsE : Params := operands 0x1000 16 0x2000 18 2 2

/-- What one step makes of image E under a command word: STATUS, the 18 bytes at 0x2000, LAST_FILTER. -/
def runE (w : Nat) : Option (Word × List Byte × BitVec 3) :=
  (nextOf (step ((idle operandsE 0x1000 imageE).withFetchWord 32 w))).map fun t =>
    (t.status.word, t.mem.readBytes 0x2000 18, t.results.lastFilter)

/-! ## Well-formedness: one ill-formed term for each check -/

theorem test_wellFormed_refuses_wide_bit_depth :
    WellFormed (.filterNone 256 6) = false ∧ WellFormed (.filterSub 256 6) = false ∧
    WellFormed (.filterUp 256 6) = false ∧ WellFormed (.filterAvg 256 6) = false ∧
    WellFormed (.filterPaeth 256 6) = false ∧ WellFormed (.filterAuto 256 6) = false := by decide

theorem test_wellFormed_refuses_wide_colour_type :
    WellFormed (.filterNone 8 256) = false ∧ WellFormed (.filterSub 8 256) = false ∧
    WellFormed (.filterUp 8 256) = false ∧ WellFormed (.filterAvg 8 256) = false ∧
    WellFormed (.filterPaeth 8 256) = false ∧ WellFormed (.filterAuto 8 256) = false := by decide

/-! ## Decoding: words written out from R90, R91, R93 (CT, BD, 0, FSEL, OP) -/

theorem test_decode_nop : decode 0b0000000000000000000000000000_0000#32 = .ok .nop := by decide
theorem test_decode_filterNone : decode 0b00000000_00000110_00001000_0_000_0001#32 = .ok (.filterNone 8 6) := by decide
theorem test_decode_filterSub : decode 0b00000000_00000110_00001000_0_001_0001#32 = .ok (.filterSub 8 6) := by decide
theorem test_decode_filterUp : decode 0b00000000_00000110_00001000_0_010_0001#32 = .ok (.filterUp 8 6) := by decide
theorem test_decode_filterAvg : decode 0b00000000_00000110_00001000_0_011_0001#32 = .ok (.filterAvg 8 6) := by decide
theorem test_decode_filterPaeth : decode 0b00000000_00000110_00001000_0_100_0001#32 = .ok (.filterPaeth 8 6) := by decide
theorem test_decode_filterAuto : decode 0b00000000_00000010_00010000_0_111_0001#32 = .ok (.filterAuto 16 2) := by decide
theorem test_decode_frame : decode 0b0000000000000000000000000000_0010#32 = .ok .frame := by decide
theorem test_decode_crc : decode 0b0000000000000000000000000000_0011#32 = .ok .crc := by decide

theorem test_decode_rejects_by_name :
    decode 0b00000000_00000110_00001000_0_101_0001#32 = .error .reservedField ∧
    decode 0b00000000_00000110_00001000_1_111_0001#32 = .error .reservedField ∧
    decode 0b00000001_00000110_00001000_0_111_0001#32 = .error .reservedField ∧
    decode 0b0000000000000000000000000001_0000#32 = .error .reservedField ∧
    decode 0b0000000000000000000000000000_0100#32 = .error .reservedOpcode := by decide

/-! ## FILTER (95_test_vectors.md section 3.1, 3.2) -/

theorem test_filterNone_imageE :
    runE 0x00060801 = some (0x02#32,
      [0x00#8, 0x0A#8, 0x14#8, 0x1E#8, 0x28#8, 0x05#8, 0x19#8, 0x23#8, 0xFF#8,
        0x00#8, 0x0C#8, 0x12#8, 0x1E#8, 0xC8#8, 0x00#8, 0xFF#8, 0x80#8, 0x01#8], 0#3) := by decide +kernel

theorem test_filterSub_imageE :
    runE 0x00060811 = some (0x02#32,
      [0x01#8, 0x0A#8, 0x14#8, 0x1E#8, 0x28#8, 0xFB#8, 0x05#8, 0x05#8, 0xD7#8,
        0x01#8, 0x0C#8, 0x12#8, 0x1E#8, 0xC8#8, 0xF4#8, 0xED#8, 0x62#8, 0x39#8], 1#3) := by decide +kernel

theorem test_filterUp_imageE :
    runE 0x00060821 = some (0x02#32,
      [0x02#8, 0x0A#8, 0x14#8, 0x1E#8, 0x28#8, 0x05#8, 0x19#8, 0x23#8, 0xFF#8,
        0x02#8, 0x02#8, 0xFE#8, 0x00#8, 0xA0#8, 0xFB#8, 0xE6#8, 0x5D#8, 0x02#8], 2#3) := by decide +kernel

theorem test_filterAvg_imageE :
    runE 0x00060831 = some (0x02#32,
      [0x03#8, 0x0A#8, 0x14#8, 0x1E#8, 0x28#8, 0x00#8, 0x0F#8, 0x14#8, 0xEB#8,
        0x03#8, 0x07#8, 0x08#8, 0x0F#8, 0xB4#8, 0xF8#8, 0xEA#8, 0x60#8, 0x1E#8], 3#3) := by decide +kernel

/-- V5a: the 9-bit sum of the average, 255 + 255. -/
theorem test_filterAvg_nine_bit_sum :
    (nextOf (step ((idle (operands 0x1000 16 0x2000 18 2 2) 0x1000
        ([0#8, 0#8, 0#8, 0#8, 255#8, 255#8, 255#8, 255#8] ++ [255#8, 255#8, 255#8, 255#8, 0#8, 0#8, 0#8, 0#8])).withFetchWord
        32 0x00060831))).map (fun t => t.mem.readBytes 0x2009 9) =
      some [0x03#8, 0xFF#8, 0xFF#8, 0xFF#8, 0xFF#8, 0x01#8, 0x01#8, 0x01#8, 0x01#8] := by decide +kernel

theorem test_filterPaeth_imageE :
    runE 0x00060841 = some (0x02#32,
      [0x04#8, 0x0A#8, 0x14#8, 0x1E#8, 0x28#8, 0xFB#8, 0x05#8, 0x05#8, 0xD7#8,
        0x04#8, 0x02#8, 0xFE#8, 0x00#8, 0xA0#8, 0xFB#8, 0xE6#8, 0x5D#8, 0x02#8], 4#3) := by decide +kernel

theorem test_filterAuto_imageE :
    runE 0x00060871 = some (0x02#32,
      [0x01#8, 0x0A#8, 0x14#8, 0x1E#8, 0x28#8, 0xFB#8, 0x05#8, 0x05#8, 0xD7#8,
        0x02#8, 0x02#8, 0xFE#8, 0x00#8, 0xA0#8, 0xFB#8, 0xE6#8, 0x5D#8, 0x02#8], 2#3) := by decide +kernel

/-- V6: the pre-wrap cost picks Sub (1020 against 1024), where the wrapped cost would pick Up. -/
theorem test_filterAuto_prewrap_cost :
    (nextOf (step ((idle (operands 0x1000 8 0x2000 9 2 1) 0x1000
        [1#8, 1#8, 1#8, 1#8, 255#8, 255#8, 255#8, 255#8]).withFetchWord 32 0x00060871))).map
      (fun t => (t.results.lastFilter, t.results.costSub.toNat, t.results.costUp.toNat)) =
      some (1#3, 1020, 1024) := by decide +kernel

/-! ## FRAME, CRC, NOP (95_test_vectors.md section 5) -/

/-- The IDAT payload 01 02 03 in place. -/
theorem test_frame_in_place :
    (nextOf (step ((idle { operands 0x2008 3 0x2000 15 0 0 with chunkType := 0x49444154#32 } 0x2008
        [1#8, 2#8, 3#8]).withFetchWord 32 2))).map (fun t => (t.mem.readBytes 0x2000 15, t.results.outLen)) =
      some ([0#8, 0#8, 0#8, 3#8, 0x49#8, 0x44#8, 0x41#8, 0x54#8, 1#8, 2#8, 3#8, 0x53#8, 0x37#8, 0x17#8, 0xAD#8],
        15#32) := by decide +kernel

/-- One byte too far: the write range ends at 2^32 + 1. -/
theorem test_frame_range :
    (nextOf (step ((idle { operands 0x1000 2 0xFFFFFFF3 14 0 0 with chunkType := 0x49444154#32 } 0x1000
        [1#8, 2#8]).withFetchWord 32 2))).map (fun t => t.status.word) = some 0x76#32 := by decide +kernel

theorem test_crc_check_value :
    (nextOf (step ((idle (operands 0x1000 9 0 0 0 0) 0x1000
        [0x31#8, 0x32#8, 0x33#8, 0x34#8, 0x35#8, 0x36#8, 0x37#8, 0x38#8, 0x39#8]).withFetchWord 32 3))).map
      (fun t => t.results.crcResult) = some 0xCBF43926#32 := by decide +kernel

/-- The last byte of memory. -/
theorem test_crc_top_of_memory :
    (nextOf (step ((idle (operands 0xFFFFFFFF 1 0 0 0 0) 0xFFFFFFFF [7#8]).withFetchWord 32 3))).map
      (fun t => t.results.crcResult) = some 0x4C667A2E#32 := by decide +kernel

theorem test_nop_from_reset :
    (nextOf (step (State.reset.withFetchWord 32 0))).map (fun t => t.status.word) = some 0x02#32 := by
  decide +kernel

/-- A reserved word is accepted and completes with ERR_OPCODE. -/
theorem test_reserved_opcode :
    (nextOf (step (State.reset.withFetchWord 32 0xFFFFFFF4))).map (fun t => t.status.word) = some 0x16#32 := by
  decide +kernel

/-! ## Host accesses and the platform -/

theorem test_status_w1c :
    (nextOf (step { raiseError .dim State.reset with schedule := [w1c 6#32] })).map (fun t => t.status.word) =
      some 0#32 := by decide +kernel

theorem test_misaligned_register_access :
    faultOf (step { State.reset with schedule := [.regRead 0x00E#12 .word] }) = some .hostAccess := by
  decide +kernel

/-- A CRC over the register window is refused (R66). -/
theorem test_window_in_range_is_refused :
    refusalOf (exec .crc { State.reset with lat := operands 0x40000FFF 1 0 0 0 0 }) = some .deviceRange := by
  decide +kernel

/-- A platform with one address that answers with an error, and one it does not admit. -/
def oddPlatform : Platform :=
  { basePage := 0x40000#20
    regions := [{ range := { base := 0x1000, len := 1 }, kind := .busError },
      { range := { base := 0x3000, len := 1 }, kind := .absent }] }

theorem test_bus_error_status :
    (nextOf (exec .crc { State.reset with lat := operands 0x0FFF 2 0 0 0 0, platform := oddPlatform })).map
      (fun t => t.status.word) = some 0x96#32 := by decide +kernel

/-! ## The host's encode call (R228), on program P2 (95_test_vectors.md section 6.2) -/

/-- The buffers of P2 for an image of w by h pixels. -/
def buffersP2 (w h : Nat) : EncodeBuffers :=
  { width := BitVec.ofNat 32 w, height := BitVec.ofNat 32 h, pixels := 0x1000#32, ihdr := 0x1100#32,
    filtered := 0x2000#32, filteredCap := 5#32, png := 0x3000#32 }

/-- P2's hand-made zlib stream, whatever the bytes. -/
def storedStream (_ : CompressorOptions) (_ : List Byte) : Except String (List Byte) :=
  .ok [0x78#8, 0x01#8, 0x01#8, 0x05#8, 0x00#8, 0xFA#8, 0xFF#8, 0x01#8, 0xFF#8, 0x00#8, 0x00#8, 0xFF#8, 0x05#8,
    0x05#8, 0x02#8, 0x00#8]

/-- What an encode call over P2's pixel returns, if no step stops. -/
def encodeP2 (compress : CompressorOptions → List Byte → Except String (List Byte)) (b : EncodeBuffers) :
    Option (Except (EncodeError String) (List Byte)) :=
  match encodeImage compress (defaultOptions 6) b (idle Params.reset 0x1000 [0xFF#8, 0x00#8, 0x00#8, 0xFF#8]) with
  | .next r => some r.2
  | .fault _ => none
  | .refused _ => none

/-- The error an encode call returns. -/
def encodeErrorP2 (compress : CompressorOptions → List Byte → Except String (List Byte)) (b : EncodeBuffers) :
    Option (EncodeError String) :=
  match encodeP2 compress b with
  | some (.error e) => some e
  | some (.ok _) => none
  | none => none

/-- The 73 bytes of P2's end state. -/
theorem test_encode_P2 :
    (match encodeP2 storedStream (buffersP2 1 1) with
      | some (.ok png) => png
      | some (.error _) => []
      | none => []) =
    [0x89#8, 0x50#8, 0x4E#8, 0x47#8, 0x0D#8, 0x0A#8, 0x1A#8, 0x0A#8,
      0x00#8, 0x00#8, 0x00#8, 0x0D#8, 0x49#8, 0x48#8, 0x44#8, 0x52#8, 0x00#8, 0x00#8, 0x00#8, 0x01#8,
      0x00#8, 0x00#8, 0x00#8, 0x01#8, 0x08#8, 0x06#8, 0x00#8, 0x00#8, 0x00#8, 0x1F#8, 0x15#8, 0xC4#8, 0x89#8,
      0x00#8, 0x00#8, 0x00#8, 0x10#8, 0x49#8, 0x44#8, 0x41#8, 0x54#8, 0x78#8, 0x01#8, 0x01#8, 0x05#8,
      0x00#8, 0xFA#8, 0xFF#8, 0x01#8, 0xFF#8, 0x00#8, 0x00#8, 0xFF#8, 0x05#8, 0x05#8, 0x02#8, 0x00#8,
      0xED#8, 0xC3#8, 0xE2#8, 0x37#8,
      0x00#8, 0x00#8, 0x00#8, 0x00#8, 0x49#8, 0x45#8, 0x4E#8, 0x44#8, 0xAE#8, 0x42#8, 0x60#8, 0x82#8] := by
  decide +kernel

/-- ERR_LEN (2^22 by 256 pixels), ERR_CAP, ERR_DIM, ERR_OVERLAP of the IHDR chunk, the compressor's own failure and
a zero height each end the call with no PNG. -/
theorem test_encode_returns_no_png_on_an_error :
    encodeErrorP2 storedStream (buffersP2 0x400000 256) = some (.command 5#4) ∧
    encodeErrorP2 storedStream (buffersP2 1 2) = some (.command 6#4) ∧
    encodeErrorP2 storedStream { buffersP2 0x400001 1 with pixels := 0x10000#32 } = some (.command 4#4) ∧
    encodeErrorP2 storedStream { buffersP2 1 1 with ihdr := 0x3009#32 } = some (.command 8#4) ∧
    encodeErrorP2 (fun _ _ => .error "full") (buffersP2 1 1) = some (.compressor "full") ∧
    encodeErrorP2 storedStream (buffersP2 1 0) = some .zeroDimensions := by decide +kernel

/-! ## Witnesses: a state and operands that meet the hypotheses of each obligation -/

theorem witness_ResetRegisterValues :
    (0x000#12).toNat % 4 = 0 ∧ (0x004#12).toNat % 4 = 0 ∧ (0x04C#12).toNat % 4 = 0 ∧ (0xFFC#12).toNat % 4 = 0 := by
  decide

/-- BUSY blocks with a decoded word and a reserved one, under each schedule, and an IDLE one. -/
theorem witness_StepRunsLatchedCommand :
    (busy 3#32 operandsE 0 []).status.busy = true ∧ decode (busy 3#32 operandsE 0 []).latCmd = .ok .crc ∧
    (busy 3#32 operandsE 0 []).schedule = [] ∧
    { busy 3#32 operandsE 0 [] with schedule := [.engine, .reset] }.schedule = .engine :: [.reset] ∧
    { busy 3#32 operandsE 0 [] with schedule := [.wait] }.schedule = .wait :: [] ∧
    (busy 4#32 operandsE 0 []).status.busy = true ∧
    decode (busy 4#32 operandsE 0 []).latCmd = .error .reservedOpcode ∧ (busy 4#32 operandsE 0 []).schedule = [] ∧
    { busy 4#32 operandsE 0 [] with schedule := [.wait] }.schedule = .wait :: [] ∧
    State.reset.status.busy = false ∧ State.reset.schedule = [] ∧
    { State.reset with schedule := [.engine] }.schedule = .engine :: [] ∧
    { complete State.reset with schedule := [.wait, .engine] }.status.busy = false ∧
    { complete State.reset with schedule := [.wait, .engine] }.schedule = .wait :: [.engine] := by decide

/-- Every constructor, with each field at its least and its greatest value. -/
theorem witness_DecodeOfEncode :
    WellFormed .nop = true ∧ WellFormed (.filterNone 0 0) = true ∧ WellFormed (.filterSub 255 255) = true ∧
    WellFormed (.filterUp 8 6) = true ∧ WellFormed (.filterAvg 8 6) = true ∧ WellFormed (.filterPaeth 255 0) = true ∧
    WellFormed (.filterAuto 0 255) = true ∧ WellFormed .frame = true ∧ WellFormed .crc = true := by decide

theorem witness_PlacedWordRunsItsInstruction : WellFormed (.filterAuto 255 0) = true := by decide

theorem witness_EncodeOfDecode : decode 0x00FFFF71#32 = .ok (.filterAuto 255 255) := by decide

theorem witness_DecodeAgreesWithOpcodeMap :
    decode 0x00FFFF11#32 = .ok (.filterSub 255 255) ∧
    0x00FFFF11#32 &&& tableMask (.filterSub 8 6) = tableMatch (.filterSub 8 6) := by decide

theorem witness_ReservedOpcodeCompletes :
    let s := { State.reset with schedule := [cmdWrite 0xFFFFFFF4#32] }
    s.status.busy = false ∧ s.schedule = [cmdWrite 0xFFFFFFF4#32] ∧ 4 ≤ (0xFFFFFFF4#32).toNat % 16 := by decide

theorem witness_ReservedFieldCompletes :
    let s := { State.reset with schedule := [cmdWrite 0x00060851#32] }
    let s' := { State.reset with schedule := [cmdWrite 0x00000012#32] }
    s.status.busy = false ∧ s.schedule = [cmdWrite 0x00060851#32] ∧ (0x00060851#32).toNat % 16 = 1 ∧
    (0x00060851#32).toNat / 16 % 8 = 5 ∧ (0x000608F1#32).toNat / 128 % 2 = 1 ∧
    (0x01060871#32).toNat / 2 ^ 24 ≠ 0 ∧ (0x00060861#32).toNat / 16 % 8 = 6 ∧
    s'.status.busy = false ∧ s'.schedule = [cmdWrite 0x00000012#32] ∧ (0x00000012#32).toNat % 16 = 2 ∧
    (0x00000012#32).toNat / 16 ≠ 0 := by decide

theorem witness_RegisterReadHasNoSideEffect :
    (0xFFC#12).toNat % 4 = 0 ∧
    { State.reset with schedule := [.regRead 0xFFC#12 .word] }.schedule = .regRead 0xFFC#12 .word :: [] := by decide

theorem witness_StatusFieldsRead :
    (complete State.reset).status.wf = true ∧ (complete State.reset).status.err = false := by decide

theorem witness_ReservedAndReadOnlyRegisters :
    0x050 ≤ (0x050#12).toNat ∧ 0x050 ≤ (0xFFC#12).toNat ∧
    (0xFFFFFFFE#32).getLsbD 0 = (0x00000000#32).getLsbD 0 ∧
    (0xFFFFFFF1#32).getLsbD 1 = (0#32).getLsbD 1 ∧ (0xFFFFFFF1#32).getLsbD 2 = (0#32).getLsbD 2 ∧
    (0xFFFFFFF1#32).getLsbD 3 = (0#32).getLsbD 3 ∧
    (0x04C#12).toNat % 4 = 0 ∧ (0x050#12).toNat % 4 = 0 ∧ (0xFFC#12).toNat % 4 = 0 ∧
    { State.reset with schedule := [.regWrite 0x04C#12 .word 7#32] }.schedule =
      .regWrite 0x04C#12 .word 7#32 :: [] ∧
    { State.reset with schedule := [.regWrite 0x050#12 .word 7#32] }.schedule =
      .regWrite 0x050#12 .word 7#32 :: [] := by decide

theorem witness_RegisterWriteChangesOnlyItsRegister :
    { State.reset with schedule := [.regWrite 0x008#12 .word 1#32] }.schedule = .regWrite 0x008#12 .word 1#32 :: [] ∧
    { State.reset with schedule := [wr .crcSeed 7#32] }.schedule = .regWrite 0x030#12 .word 7#32 :: [] := by decide

/-- Written as all ones and as 0: every clause of the W1C write. -/
theorem witness_StatusWriteOneToClear :
    { State.reset with schedule := [w1c 0xFFFFFFFF#32] }.schedule = .regWrite 0x00C#12 .word 0xFFFFFFFF#32 :: [] ∧
    (0xFFFFFFFF#32).getLsbD 1 = true ∧ (0xFFFFFFFF#32).getLsbD 2 = true ∧ (0xFFFFFFFF#32).getLsbD 3 = true ∧
    { State.reset with schedule := [w1c 0#32] }.schedule = .regWrite 0x00C#12 .word 0#32 :: [] ∧
    (0#32).getLsbD 1 = false ∧ (0#32).getLsbD 2 = false ∧ (0#32).getLsbD 3 = false := by decide

theorem witness_AcceptanceLatches :
    let s := { idle operandsE 0 [] with schedule := [cmdWrite 2#32, .engine] }
    s.status.busy = false ∧ s.schedule = cmdWrite 2#32 :: [.engine] := by decide

theorem witness_CommandWordDroppedWhileBusy :
    let s := { busy 3#32 operandsE 0 [] with schedule := [cmdWrite 0#32] }
    s.status.busy = true ∧ s.schedule = cmdWrite 0#32 :: [] := by decide

theorem witness_RegisterWritesWhileBusy :
    (busy 3#32 operandsE 0x1000 imageE).status.busy = true ∧
    (nextOf (engineTurn (busy 3#32 operandsE 0x1000 imageE))).isSome = true := by decide +kernel

theorem witness_UnalignedRegisterAccessFaults :
    (AccessSize.byte ≠ .word ∨ (0x00C#12).toNat % 4 ≠ 0) ∧ (AccessSize.word ≠ .word ∨ (0xFFF#12).toNat % 4 ≠ 0) ∧
    { State.reset with schedule := [.regRead 0x00C#12 .byte] }.schedule = .regRead 0x00C#12 .byte :: [] ∧
    { State.reset with schedule := [.regWrite 0xFFF#12 .word 0#32] }.schedule =
      .regWrite 0xFFF#12 .word 0#32 :: [] := by decide

theorem witness_InterruptRisesAndFalls :
    { State.reset with irqEn := true }.irqEn = true ∧ State.reset.irqEn = false ∧ (2#32).getLsbD 1 = true ∧
    (0#32).getLsbD 0 = false := by decide

theorem witness_NopAndCrcFrame :
    (nextOf (exec .nop (busy 0#32 operandsE 0x1000 imageE))).isSome = true ∧
    (nextOf (exec .crc (busy 3#32 operandsE 0x1000 imageE))).isSome = true ∧
    (nextOf (exec .crc (busy 3#32 (operands 0xFFFFFFFF 2 0 0 0 0) 0 []))).map (fun t => t.status.err) =
      some true := by decide +kernel

theorem witness_FrameFrame :
    (busy 2#32 (operands 0x1000 16 0x2000 28 0 0) 0x1000 imageE).mem.wf = true ∧
    (nextOf (exec .frame (busy 2#32 (operands 0x1000 16 0x2000 28 0 0) 0x1000 imageE))).isSome = true := by
  decide +kernel

theorem witness_FilterFrame :
    (busy 0x00060871#32 operandsE 0x1000 imageE).mem.wf = true ∧
    (nextOf (exec (filterInstr .auto 8 6) (busy 0x00060871#32 operandsE 0x1000 imageE))).isSome = true := by
  decide +kernel

/-- Each of the three outcomes. -/
theorem witness_CommandIgnoresLiveRegisters :
    (nextOf (exec .crc (busy 3#32 operandsE 0x1000 imageE))).isSome = true ∧
    faultOf (exec .crc { State.reset with lat := operands 0x3000 1 0 0 0 0, platform := oddPlatform }) =
      some .accessNotAdmitted ∧
    refusalOf (exec .crc { State.reset with lat := operands 0x40000FFF 1 0 0 0 0 }) = some .deviceRange := by
  decide +kernel

/-- A FILTER of one pixel that succeeds, and two memories that agree on its four source bytes and differ after
them. -/
theorem witness_CommandReadsOnlyItsReadRange :
    let s := busy 0x00060871#32 (operands 0x1000 4 0x2000 5 1 1) 0x1000 imageE
    let m := Memory.writeBytes [] 0x1000 (imageE.take 4)
    s.mem.wf = true ∧ m.wf = true ∧ sameBytes (readRange (.filterAuto 8 6) s.lat) s.mem m ∧
    (readRange (.filterAuto 8 6) s.lat).len = 4 ∧ s.mem.read 0x1004 ≠ m.read 0x1004 ∧
    (nextOf (exec (.filterAuto 8 6) s)).map (fun t => t.status.err) = some false := by
  refine ⟨by decide +kernel, by decide +kernel, fun a ha => ?_, by decide +kernel, by decide +kernel,
    by decide +kernel⟩
  have h : 0x1000 ≤ a ∧ a < 0x1000 + 4 := by
    simpa [AddrRange.has, readRange, sourceRange, busy, idle, operands, accept] using ha
  obtain ⟨h1, h2⟩ := h
  interval_cases a <;> decide +kernel

theorem witness_ErrorChangesOnlyStatus :
    (nextOf (exec .frame State.reset)).map (fun t => (t.status.err, t.status.errcode, t.schedule)) =
      some (true, 6#4, []) := by decide +kernel

theorem witness_CommandsCompleteOnNormalMemory :
    commandMemoryNormal .nop State.reset = true ∧
    commandMemoryNormal .frame (busy 2#32 (operands 0x1000 16 0x2000 28 0 0) 0x1000 imageE) = true ∧
    commandMemoryNormal .crc (busy 3#32 operandsE 0x1000 imageE) = true ∧
    commandMemoryNormal (.filterNone 8 6) (busy 0#32 operandsE 0x1000 imageE) = true ∧
    commandMemoryNormal (.filterSub 8 6) (busy 0#32 operandsE 0x1000 imageE) = true ∧
    commandMemoryNormal (.filterUp 8 6) (busy 0#32 operandsE 0x1000 imageE) = true ∧
    commandMemoryNormal (.filterAvg 8 6) (busy 0#32 operandsE 0x1000 imageE) = true ∧
    commandMemoryNormal (.filterPaeth 8 6) (busy 0#32 operandsE 0x1000 imageE) = true ∧
    commandMemoryNormal (.filterAuto 8 6) (busy 0#32 operandsE 0x1000 imageE) = true := by decide +kernel

/-- FILTER's checks at their boundaries (95_test_vectors.md section 4.1): each clause's first failing check. -/
theorem witness_FilterChecksInOrder :
    filterChecks 16 6 operandsE = some .format ∧
    filterChecks 8 6 (operands 0 0 0x2000 0 0 1) = some .dim ∧
    filterChecks 8 6 (operands 0 0 0x2000 0 0x400001 1) = some .dim ∧
    filterChecks 8 6 (operands 0 0 0x2000 0 0x400000 256) = some .len ∧
    filterChecks 8 6 (operands 0x1000 4 0x2000 4 1 1) = some .cap ∧
    filterChecks 8 6 (operands 0xFFFFFFFD 4 0 5 1 1) = some .range ∧
    filterChecks 8 6 (operands 0x1000 4 0xFFFFFFFC 5 1 1) = some .range ∧
    filterChecks 8 6 (operands 0x1000 4 0x1003 5 1 1) = some .overlap ∧
    filterChecks 8 6 (operands 0x1004 4 0x1000 5 1 1) = some .overlap := by decide +kernel

theorem operandsE_valid : FilterOperandsValid operandsE :=
  (filterChecks_eq_none.1 (by decide +kernel : filterChecks 8 6 operandsE = none)).2

theorem witness_FilterWritesFilteredBuffer :
    (busy 0x00060871#32 operandsE 0x1000 imageE).mem.wf = true ∧
    FilterOperandsValid (busy 0x00060871#32 operandsE 0x1000 imageE).lat ∧
    (∀ sel ∈ [FilterSel.forced .none, .forced .sub, .forced .up, .forced .avg, .forced .paeth, .auto],
      commandMemoryNormal (filterInstr sel 8 6) (busy 0x00060871#32 operandsE 0x1000 imageE) = true) ∧
    1 < (busy 0x00060871#32 operandsE 0x1000 imageE).lat.height.toNat ∧
    7 < 4 * (busy 0x00060871#32 operandsE 0x1000 imageE).lat.width.toNat :=
  ⟨by decide +kernel, operandsE_valid, by decide +kernel, by decide +kernel, by decide +kernel⟩

theorem witness_FilterResultRegisters :
    FilterOperandsValid (busy 0x00060871#32 operandsE 0x1000 imageE).lat ∧
    commandMemoryNormal (filterInstr .auto 8 6) (busy 0x00060871#32 operandsE 0x1000 imageE) = true :=
  ⟨operandsE_valid, by decide +kernel⟩

theorem witness_RowsAreSourceBytes : 0 < byteWidth operandsE ∧ 7 < byteWidth operandsE := by decide

/-- One triple for each of the three outcomes (95_test_vectors.md section 2.1). -/
theorem witness_PaethTieOrder :
    (((11 : Int) - 10).natAbs ≤ ((8 : Int) - 10).natAbs ∧ ((11 : Int) - 10).natAbs ≤ ((8 : Int) + 11 - 2 * 10).natAbs) ∧
    (¬ (((18 : Int) - 20).natAbs ≤ ((21 : Int) - 20).natAbs ∧
        ((18 : Int) - 20).natAbs ≤ ((21 : Int) + 18 - 2 * 20).natAbs) ∧
      ((21 : Int) - 20).natAbs ≤ ((21 : Int) + 18 - 2 * 20).natAbs) ∧
    (¬ (((20 : Int) - 15).natAbs ≤ ((10 : Int) - 15).natAbs ∧
        ((20 : Int) - 15).natAbs ≤ ((10 : Int) + 20 - 2 * 15).natAbs) ∧
      ¬ ((10 : Int) - 15).natAbs ≤ ((10 : Int) + 20 - 2 * 15).natAbs) := by decide

theorem witness_CostFitsItsRegister : imageE.length ≤ 2 ^ 24 ∧ FilterType.sub ≠ .none := by decide

theorem witness_ChunkLayout : imageE.length < 2 ^ 32 ∧ 0 < 4 ∧ 3 < 4 := by decide

/-- FRAME's checks at their boundaries (95_test_vectors.md section 5.2), and the ranges that are no overlap error:
no payload, adjacent on either side, in place. -/
theorem witness_FrameChecksInOrder :
    frameChecks (operands 0x1000 0 0x2000 11 0 0) = some .cap ∧
    frameChecks (operands 0x1000 2 0xFFFFFFF3 14 0 0) = some .range ∧
    frameChecks (operands 0x2007 3 0x2000 15 0 0) = some .overlap ∧
    frameChecks (operands 0x2009 3 0x2000 15 0 0) = some .overlap ∧
    frameChecks (operands 0x2001 0 0x2000 12 0 0) = none ∧ frameChecks (operands 0x200F 3 0x2000 15 0 0) = none ∧
    frameChecks (operands 0x1FFD 3 0x2000 15 0 0) = none ∧
    frameChecks (operands 0x2008 3 0x2000 15 0 0) = none := by decide +kernel

/-- FRAME's success conditions hold in place, adjacent, and for no payload at all. -/
theorem witness_FrameWritesChunk :
    (busy 2#32 (operands 0x2008 3 0x2000 15 0 0) 0x2008 [1#8, 2#8, 3#8]).mem.wf = true ∧
    FrameOperandsValid (operands 0x2008 3 0x2000 15 0 0) ∧ FrameOperandsValid (operands 0x200F 3 0x2000 15 0 0) ∧
    FrameOperandsValid (operands 0x2000 0 0x2000 12 0 0) ∧
    commandMemoryNormal .frame (busy 2#32 (operands 0x2008 3 0x2000 15 0 0) 0x2008 [1#8, 2#8, 3#8]) = true :=
  ⟨by decide +kernel, frameChecks_eq_none.1 (by decide +kernel), frameChecks_eq_none.1 (by decide +kernel),
    frameChecks_eq_none.1 (by decide +kernel), by decide +kernel⟩

/-- The same payload in place and elsewhere; and an overlap that is neither apart nor in place. -/
theorem witness_FrameInPlacePayload :
    let s := busy 2#32 (operands 0x2008 3 0x2000 15 0 0) 0x2008 [1#8, 2#8, 3#8]
    let s' := busy 2#32 (operands 0x1000 3 0x2000 15 0 0) 0x1000 [1#8, 2#8, 3#8]
    (s.mem.wf = true ∧ s'.mem.wf = true ∧ FrameOperandsValid s.lat ∧ FrameOperandsValid s'.lat ∧
      commandMemoryNormal .frame s = true ∧ commandMemoryNormal .frame s' = true ∧
      s.lat.srcAddr.toNat = s.lat.dstAddr.toNat + 8 ∧ s'.lat.srcLen = s.lat.srcLen ∧
      s'.lat.chunkType = s.lat.chunkType ∧
      s.mem.readBytes s.lat.srcAddr.toNat s.lat.srcLen.toNat =
        s'.mem.readBytes s'.lat.srcAddr.toNat s.lat.srcLen.toNat) ∧
    (3 + 12 ≤ 15 ∧ 0x2007 + 3 ≤ 2 ^ 32 ∧ 0x2000 + (3 + 12) ≤ 2 ^ 32 ∧ 0x2007 ≠ 0x2000 + 8 ∧
      ¬ rangesApart 0x2007 3 0x2000 (3 + 12)) := by
  refine ⟨⟨by decide +kernel, by decide +kernel, frameChecks_eq_none.1 (by decide +kernel),
    frameChecks_eq_none.1 (by decide +kernel), by decide +kernel, by decide +kernel, by decide +kernel,
    by decide +kernel, by decide +kernel, by decide +kernel⟩, by decide, by decide, by decide, by decide, ?_⟩
  rw [← overlap_eq_false_iff]
  decide

theorem witness_CrcCommandResult :
    2 ^ 32 < (operands 0xFFFFFFFF 2 0 0 0 0).srcAddr.toNat + (operands 0xFFFFFFFF 2 0 0 0 0).srcLen.toNat ∧
    (operands 0xFFFFFFFF 1 0 0 0 0).srcAddr.toNat + (operands 0xFFFFFFFF 1 0 0 0 0).srcLen.toNat ≤ 2 ^ 32 ∧
    commandMemoryNormal .crc (busy 3#32 (operands 0xFFFFFFFF 1 0 0 0 0) 0xFFFFFFFF [7#8]) = true ∧
    (operands 0x1000 0 0 0 0 0).srcLen = 0#32 := by decide +kernel

theorem witness_BusErrorCompletes :
    let s := { busy 3#32 (operands 0x0FFF 2 0 0 0 0) 0 [] with platform := oddPlatform }
    s.mem.wf = true ∧ commandOperandsValid .crc s.lat ∧ s.platform.meetsDevice (readRange .crc s.lat) = false ∧
    s.platform.meetsDevice (writeRange .crc s.lat) = false ∧
    s.platform.meetsKind .absent (readRange .crc s.lat) = false ∧
    s.platform.meetsKind .absent (writeRange .crc s.lat) = false ∧
    s.platform.meetsKind .busError (readRange .crc s.lat) = true :=
  ⟨rfl, crcChecks_eq_none.1 (by decide +kernel), by decide +kernel, by decide +kernel, by decide +kernel,
    by decide +kernel, by decide +kernel⟩

theorem witness_CommandsStopOutsideNormalMemory :
    let s := busy 3#32 (operands 0x40000FFF 1 0 0 0 0) 0 []
    let s' := { busy 3#32 (operands 0x3000 1 0 0 0 0) 0 [] with platform := oddPlatform }
    commandOperandsValid .crc s.lat ∧ s.platform.meetsDevice (readRange .crc s.lat) = true ∧
    commandOperandsValid .crc s'.lat ∧ s'.platform.meetsDevice (readRange .crc s'.lat) = false ∧
    s'.platform.meetsDevice (writeRange .crc s'.lat) = false ∧
    s'.platform.meetsKind .absent (readRange .crc s'.lat) = true :=
  ⟨crcChecks_eq_none.1 (by decide +kernel), by decide +kernel, crcChecks_eq_none.1 (by decide +kernel),
    by decide +kernel, by decide +kernel, by decide +kernel⟩

/-- IDLE and BUSY with a FRAME in progress, whose write range ends at 0x2010. -/
theorem witness_ResetInputAtAnyTime :
    let s := { idle operandsE 0x1000 imageE with schedule := [.reset] }
    let s' := { busy 2#32 (operands 0x1000 4 0x2000 16 0 0) 0x1000 imageE with schedule := [.reset] }
    s.mem.wf = true ∧ s.schedule = .reset :: [] ∧ s.status.busy = false ∧
    s'.mem.wf = true ∧ s'.schedule = .reset :: [] ∧ s'.status.busy = true ∧
    (wordWrites s'.latCmd s'.lat).has 0x200F = true ∧ (wordWrites s'.latCmd s'.lat).has 0x2010 = false := by
  decide +kernel

/-- A FRAME in progress: its write range 0x2000 to 0x200F, its read range 0x1000 to 0x1003; and the same block
after the completion, whose buffers are still held. -/
theorem witness_HazardAccessesFault :
    let s := busy 2#32 (operands 0x1000 4 0x2000 16 0 0) 0x1000 imageE
    let s' := complete s
    Inv s ∧ s.status.busy = true ∧ s.platform.normal (oneByte (0x200F#32).toNat) = true ∧
    (wordWrites s.latCmd s.lat).has (0x200F#32).toNat = true ∧
    s.platform.normal (oneByte (0x1003#32).toNat) = true ∧
    (wordReads s.latCmd s.lat).has (0x1003#32).toNat = true ∧
    s'.status.busy = false ∧ readHazard (0x200F#32).toNat s' = true ∧ writeHazard (0x1003#32).toNat s' = true ∧
    { s' with schedule := [.memRead 0x200F#32] }.schedule = .memRead 0x200F#32 :: [] ∧
    { s' with schedule := [.memWrite 0x1003#32 9#8] }.schedule = .memWrite 0x1003#32 9#8 :: [] ∧
    (nextOf (engineTurn s)).isSome = true :=
  ⟨⟨by decide +kernel, by decide +kernel, by decide +kernel, by decide +kernel⟩, by decide +kernel,
    by decide +kernel, by decide +kernel, by decide +kernel, by decide +kernel, by decide +kernel,
    by decide +kernel, by decide +kernel, rfl, rfl, by decide +kernel⟩

/-- The read range may be read while BUSY; the byte past the write range may be written. -/
theorem witness_HostMemoryAccessesAllowed :
    let s := busy 2#32 (operands 0x1000 4 0x2000 16 0 0) 0x1000 imageE
    s.mem.wf = true ∧ s.platform.normal (oneByte (0x1003#32).toNat) = true ∧
    readHazard (0x1003#32).toNat s = false ∧ s.platform.normal (oneByte (0x2010#32).toNat) = true ∧
    writeHazard (0x2010#32).toNat s = false := by decide +kernel

theorem witness_ObservedCompletionReturnsBuffers :
    let s := { complete (busy 0#32 operandsE 0 []) with schedule := [rd .status] }
    (0x00C#12).toNat % 4 = 0 ∧ s.schedule = .regRead 0x00C#12 .word :: [] ∧ s.status.busy = false ∧
    s.status.done = true ∧ (busy 0#32 operandsE 0 []).status.busy = true := by decide

theorem witness_EveryStepKeepsInvariant :
    Inv (busy 0x00060871#32 operandsE 0x1000 imageE) ∧
    (nextOf (step (busy 0x00060871#32 operandsE 0x1000 imageE))).isSome = true :=
  ⟨⟨by decide +kernel, by decide +kernel, by decide +kernel, by decide +kernel⟩, by decide +kernel⟩

/-- A step that changes the result registers. -/
theorem witness_ResultsChangeOnlyAtSuccess :
    (nextOf (step (busy 0x00060871#32 operandsE 0x1000 imageE))).map
      (fun t => decide (t.results ≠ (busy 0x00060871#32 operandsE 0x1000 imageE).results)) = some true := by
  decide +kernel

theorem witness_CommandRunsToCompletion :
    (busy 3#32 operandsE 0x1000 imageE).status.busy = true ∧
    (nextOf (step (busy 3#32 operandsE 0x1000 imageE))).isSome = true ∧
    (nextOf (step { busy 3#32 operandsE 0x1000 imageE with schedule := [cmdWrite 0#32] })).isSome = true := by
  decide +kernel

/-- BUSY with no event left, and with a wait, a dropped word and a reset still to come. -/
theorem witness_EveryCommandCompletes :
    (busy 3#32 operandsE 0x1000 imageE).status.busy = true ∧
    { busy 3#32 operandsE 0x1000 imageE with schedule := [cmdWrite 0#32, .wait, .reset] }.status.busy = true := by
  decide

theorem witness_CommandWordAndCompletionEitherOrder :
    (busy 3#32 operandsE 0x1000 imageE).status.busy = true ∧
    (nextOf (engineTurn (busy 3#32 operandsE 0x1000 imageE))).isSome = true := by decide +kernel

/-- The last byte of the window, a device byte, and the two bytes of `oddPlatform`. -/
theorem witness_HostMemoryAccessesStop :
    let pl : Platform :=
      { oddPlatform with regions := { range := { base := 0x5000, len := 1 }, kind := .device } :: oddPlatform.regions }
    pl.window.has (0x40000FFF#32).toNat = true ∧
    (pl.window.has (0x5000#32).toNat = false ∧ pl.meetsKind .device (oneByte (0x5000#32).toNat) = true) ∧
    (pl.window.has (0x3000#32).toNat = false ∧ pl.meetsKind .device (oneByte (0x3000#32).toNat) = false ∧
      pl.meetsKind .absent (oneByte (0x3000#32).toNat) = true) ∧
    (pl.window.has (0x1000#32).toNat = false ∧ pl.meetsKind .device (oneByte (0x1000#32).toNat) = false ∧
      pl.meetsKind .busError (oneByte (0x1000#32).toNat) = true) ∧
    { State.reset with schedule := [.memRead 0x5000#32] }.schedule = .memRead 0x5000#32 :: [] ∧
    { State.reset with schedule := [.memWrite 0x5000#32 1#8] }.schedule = .memWrite 0x5000#32 1#8 :: [] := by
  decide +kernel

end Sys2Proof.Tests
end

section
/-! PROOFS. The invariant of the machine is kept by every step (10_state.md R28, R41 to R44, 20_memory.md R61). -/

namespace Sys2Proof.Machine

/-! ## The commands, by kind -/

/-- Every instruction is NOP, a FILTER of some selection, FRAME or CRC (R93, R94). -/
theorem instr_kind_cases {motive : Instr → Prop} (nop : motive .nop)
    (filter : ∀ sel bd ct, motive (filterInstr sel bd ct)) (frame : motive .frame) (crc : motive .crc)
    (i : Instr) : motive i := by
  cases i with
  | nop => exact nop
  | filterNone bd ct => exact filter (.forced .none) bd ct
  | filterSub bd ct => exact filter (.forced .sub) bd ct
  | filterUp bd ct => exact filter (.forced .up) bd ct
  | filterAvg bd ct => exact filter (.forced .avg) bd ct
  | filterPaeth bd ct => exact filter (.forced .paeth) bd ct
  | filterAuto bd ct => exact filter .auto bd ct
  | frame => exact frame
  | crc => exact crc

@[simp] theorem effectOf_nop : effectOf .nop = complete := rfl
@[simp] theorem effectOf_frame : effectOf .frame = frameDone := rfl
@[simp] theorem effectOf_crc : effectOf .crc = crcDone := rfl

@[simp] theorem effectOf_filterInstr (sel : FilterSel) (bd ct : Nat) :
    effectOf (filterInstr sel bd ct) = filterDone sel := by
  cases sel with
  | auto => rfl
  | forced t => cases t <;> rfl

theorem commandOperandsValid_filterInstr (sel : FilterSel) (bd ct : Nat) (p : Params) :
    commandOperandsValid (filterInstr sel bd ct) p ↔ (bd = 8 ∧ ct = 6) ∧ FilterOperandsValid p := by
  cases sel with
  | auto => rfl
  | forced t => cases t <;> rfl

/-- The checks of a command pass exactly on valid operands (R137, R168, R173). -/
theorem checksOf_eq_none (i : Instr) (p : Params) : checksOf i p = none ↔ commandOperandsValid i p := by
  cases i using instr_kind_cases with
  | nop => exact iff_of_true rfl trivial
  | filter sel bd ct =>
    rw [checksOf_filterInstr, commandOperandsValid_filterInstr, filterChecks_eq_none]
  | frame => exact frameChecks_eq_none
  | crc => exact crcChecks_eq_none

/-! ## STATUS -/

/-- The codes of R200 are 1 to 9. -/
theorem ErrCode.code_range (e : ErrCode) : e.code ≠ 0#4 ∧ e.code.toNat ≤ 9 := by cases e <;> decide

theorem Status.wf_iff (st : Status) :
    st.wf = true ↔ (st.busy = true → st.done = false ∧ st.err = false) ∧
      (st.err = false → st.errcode = 0#4) ∧
      (st.err = true → st.errcode ≠ 0#4 ∧ st.errcode.toNat ≤ 9) := by
  obtain ⟨busy, done, err, ovr, errcode⟩ := st
  cases busy <;> cases err <;> simp [Status.wf]

theorem Status.wf_accepted (st : Status) : st.accepted.wf = true := by simp [Status.wf_iff]

theorem Status.wf_completed (st : Status) : st.completed.wf = true := by simp [Status.wf_iff]

theorem Status.wf_failed (st : Status) (e : ErrCode) : (st.failed e).wf = true := by
  simp [Status.wf_iff, e.code_range]

theorem Status.wf_dropped {st : Status} (h : st.wf = true) : st.dropped.wf = true := by
  simpa [Status.wf_iff] using h

/-- A W1C write clears ERRCODE together with ERR (R29), so it breaks no rule of STATUS. -/
theorem Status.wf_writeOneToClear {st : Status} (h : st.wf = true) (v : Word) :
    (st.writeOneToClear v).wf = true := by
  rw [Status.wf_iff] at h ⊢
  by_cases hv : v.getLsbD 2 = true
  · simp_all
  · simp_all

/-! ## The result registers -/

theorem Results.wf_iff (r : Results) :
    r.wf = true ↔ r.lastFilter.toNat ≤ 4 ∧ r.costSub.toNat ≤ 255 * 2 ^ 24 ∧ r.costUp.toNat ≤ 255 * 2 ^ 24 ∧
      r.costAvg.toNat ≤ 255 * 2 ^ 24 ∧ r.costPaeth.toNat ≤ 255 * 2 ^ 24 := by
  simp [Results.wf, and_assoc]

theorem FilterType.number_le (t : FilterType) : t.number ≤ 4 := by cases t <;> decide

/-- The Paeth predictor is one of its three neighbours (R127). -/
theorem paethOf_mem (a b c : Nat) : paethOf a b c = a ∨ paethOf a b c = b ∨ paethOf a b c = c := by
  unfold paethOf
  dsimp only
  split_ifs <;> simp

/-- Every predictor is a byte value (R122). -/
theorem predictorOf_lt (t : FilterType) (row prev : List Byte) (x : Nat) : predictorOf t row prev x < 256 := by
  have ha := leftOf_lt row x
  have hb := aboveOf_lt prev x
  have hc := upperLeftOf_lt prev x
  cases t with
  | none => exact Nat.zero_lt_succ _
  | sub => exact ha
  | up => exact hb
  | avg => simp only [predictorOf]; omega
  | paeth =>
    simp only [predictorOf]
    rcases paethOf_mem (leftOf row x) (aboveOf prev x) (upperLeftOf prev x) with h | h | h <;> rw [h] <;> assumption

/-- The difference of two bytes has a magnitude of at most 255 (R122). -/
theorem natAbs_differenceOf_le (t : FilterType) (row prev : List Byte) (x : Nat) :
    (differenceOf t row prev x).natAbs ≤ 255 := by
  have hr := byteAt_lt row x
  have hp := predictorOf_lt t row prev x
  simp only [differenceOf]
  omega

/-- A row's cost is at most 255 for each of its bytes (R130). -/
theorem costOf_le (t : FilterType) (row prev : List Byte) : costOf t row prev ≤ 255 * row.length := by
  have h := List.sum_le_card_nsmul
    ((List.range row.length).map fun x => (differenceOf t row prev x).natAbs) 255
    (List.forall_mem_map.2 fun x _ => natAbs_differenceOf_le t row prev x)
  simpa [costOf, mul_comm] using h

/-- A row of at most MAX_WIDTH pixels has costs that their registers hold, within the bound of R42. -/
theorem toNat_costOf_le (t : FilterType) {row : List Byte} (prev : List Byte) (h : row.length ≤ 2 ^ 24) :
    (BitVec.ofNat 32 (costOf t row prev)).toNat ≤ 255 * 2 ^ 24 := by
  have hc := costOf_le t row prev
  rw [BitVec.toNat_ofNat]
  exact (Nat.mod_le _ _).trans (by omega)

theorem Results.wf_filterResults (sel : FilterSel) {s : State} (hv : FilterOperandsValid s.lat) :
    (filterResults sel s).wf = true := by
  have hw : byteWidth s.lat ≤ 2 ^ 24 := by
    have hle := hv.width_le
    change 4 * s.lat.width.toNat ≤ 2 ^ 24
    omega
  have hcost : ∀ t y prev, (BitVec.ofNat 32
      (costOf t (rawRow s.mem s.lat.srcAddr.toNat (byteWidth s.lat) y) prev)).toNat ≤ 255 * 2 ^ 24 :=
    fun t y prev => toNat_costOf_le t prev (by rwa [length_rawRow])
  refine (Results.wf_iff _).2 ⟨?_, hcost .sub _ _, hcost .up _ _, hcost .avg _ _, hcost .paeth _ _⟩
  exact (BitVec.toNat_ofNat ..).trans_le ((Nat.mod_le _ _).trans (FilterType.number_le _))

/-! ## Memory and the buffers handed over -/

theorem wf_mem_frameDone {s : State} (h : s.mem.wf = true) (hv : FrameOperandsValid s.lat) :
    (frameDone s).mem.wf = true :=
  Memory.wf_writeBytes h _ (by rw [length_chunkBytes, length_sourceBytes]; exact hv.dest_end)

theorem wf_mem_filterDone (sel : FilterSel) {s : State} (h : s.mem.wf = true) (hv : FilterOperandsValid s.lat) :
    (filterDone sel s).mem.wf = true :=
  Memory.wf_writeBytes h _ (by rw [length_filteredBuffer]; exact hv.dest_end)

theorem wf_mem_abandon {s : State} (h : s.mem.wf = true) : (abandon s).mem.wf = true := by
  unfold abandon
  split
  · exact wf_drawRange h (wordWrites_base_le _ _)
  · exact h

/-- An IDLE block owes no buffer. -/
theorem holdsLatched_of_idle {s : State} (h : s.status.busy = false) : holdsLatched s = true := by
  simp [holdsLatched, h]

theorem holdsLatched_accept (w : Word) (s : State) : holdsLatched (accept w s) = true := by
  simp [holdsLatched]

/-! ## The invariant, operation by operation -/

/-- The invariant speaks of memory, STATUS, the results, the latches and the buffers handed over only. -/
theorem Inv.of_eq {s t : State} (h : Inv s) (hm : t.mem = s.mem) (hs : t.status = s.status)
    (hr : t.results = s.results) (hc : t.latCmd = s.latCmd) (hl : t.lat = s.lat) (hh : t.holds = s.holds) :
    Inv t :=
  ⟨hm ▸ h.mem, hs ▸ h.status, hr ▸ h.results, by simpa [holdsLatched, hs, hc, hl, hh] using h.holds⟩

theorem Inv.complete {s : State} (h : Inv s) : Inv (complete s) :=
  ⟨h.mem, Status.wf_completed _, h.results, holdsLatched_of_idle rfl⟩

theorem Inv.raiseError {s : State} (h : Inv s) (e : ErrCode) : Inv (raiseError e s) :=
  ⟨h.mem, Status.wf_failed _ e, h.results, holdsLatched_of_idle rfl⟩

theorem Inv.busFailure {s : State} (h : Inv s) {r : AddrRange} (hr : r.base ≤ Config.addressSpace) :
    Inv (busFailure r s) :=
  ⟨wf_drawRange h.mem hr, Status.wf_failed _ .bus, h.results, holdsLatched_of_idle rfl⟩

theorem Inv.frameDone {s : State} (h : Inv s) (hv : FrameOperandsValid s.lat) : Inv (frameDone s) :=
  ⟨wf_mem_frameDone h.mem hv, Status.wf_completed _, h.results, holdsLatched_of_idle rfl⟩

theorem Inv.filterDone {s : State} (h : Inv s) (sel : FilterSel) (hv : FilterOperandsValid s.lat) :
    Inv (filterDone sel s) :=
  ⟨wf_mem_filterDone sel h.mem hv, Status.wf_completed _, Results.wf_filterResults sel hv,
    holdsLatched_of_idle rfl⟩

theorem Inv.crcDone {s : State} (h : Inv s) : Inv (crcDone s) :=
  ⟨h.mem, Status.wf_completed _, h.results, holdsLatched_of_idle rfl⟩

/-- A command with valid operands keeps the invariant by its effect. -/
theorem Inv.effectOf {s : State} (h : Inv s) {i : Instr} (hv : commandOperandsValid i s.lat) :
    Inv (effectOf i s) := by
  cases i using instr_kind_cases with
  | nop => exact h.complete
  | filter sel bd ct =>
    rw [effectOf_filterInstr]
    exact h.filterDone sel ((commandOperandsValid_filterInstr sel bd ct _).1 hv).2
  | frame => exact h.frameDone hv
  | crc => exact h.crcDone

theorem Inv.engineTurn {s t : State} (h : Inv s) (ht : engineTurn s = .next t) : Inv t := by
  rcases engineTurn_next ht with ⟨-, rfl⟩ | ⟨-, ⟨e, rfl⟩ | ⟨i, -, hc, rfl | rfl⟩⟩
  · exact h
  · exact h.raiseError e
  · exact h.effectOf ((checksOf_eq_none i s.lat).1 hc)
  · exact h.busFailure (writeRange_base_le i s.lat)

theorem Inv.accept {s : State} (h : Inv s) (w : Word) : Inv (accept w s) :=
  ⟨h.mem, Status.wf_accepted _, h.results, holdsLatched_accept w s⟩

theorem Inv.acknowledge {s : State} (h : Inv s) (v : Word) : Inv (acknowledge v s) :=
  ⟨h.mem, Status.wf_writeOneToClear h.status v, h.results, h.holds⟩

theorem Inv.writeCmd {s : State} (h : Inv s) (w : Word) : Inv (writeCmd w s) := by
  unfold Machine.writeCmd
  split
  · exact ⟨h.mem, Status.wf_dropped h.status, h.results, h.holds⟩
  · exact h.accept w

theorem Inv.writeReg {s : State} (h : Inv s) (r : Reg) (v : Word) : Inv (writeReg r v s) := by
  cases r with
  | status => exact h.acknowledge v
  | cmd => exact h.writeCmd v
  | _ => exact h.of_eq rfl rfl rfl rfl rfl rfl

theorem Inv.regWrite {s : State} (h : Inv s) (off : BitVec 12) (v : Word) : Inv (regWrite off v s) := by
  unfold Machine.regWrite
  split
  · exact h.writeReg _ v
  · exact h

/-- A read gives buffers back only when it shows BUSY = 0 (R71), so never those of a command in progress. -/
theorem Inv.hostReadWord {s : State} (h : Inv s) (off : BitVec 12) : Inv (hostReadWord off s) := by
  by_cases hc : showsCompletion off s = true
  · have hidle : s.status.busy = false := by
      simp only [showsCompletion, Bool.and_eq_true, Bool.not_eq_true'] at hc
      exact hc.1.2
    exact ⟨h.mem, h.status, h.results, holdsLatched_of_idle hidle⟩
  · exact h.of_eq rfl rfl rfl rfl rfl (if_neg hc)

theorem Inv.hostStoreByte {s : State} (h : Inv s) (a : Word) (v : Byte) : Inv (hostStoreByte a v s) :=
  ⟨Memory.wf_write h.mem a.isLt v, h.status, h.results, h.holds⟩

/-- The invariant holds after the reset input, whatever the registers held before (R240). -/
theorem inv_resetInput {s : State} (h : s.mem.wf = true) : Inv (resetInput s) :=
  ⟨wf_mem_abandon h, (by decide : Status.reset.wf = true), (by decide : Results.reset.wf = true),
    holdsLatched_of_idle rfl⟩

theorem Inv.withSchedule {s : State} (h : Inv s) (es : List Event) : Inv { s with schedule := es } :=
  h.of_eq rfl rfl rfl rfl rfl rfl

theorem Inv.runEvent {s t : State} (h : Inv s) {e : Event} (ht : runEvent e s = .next t) : Inv t := by
  rcases runEvent_next ht with ⟨-, he⟩ | ⟨off, -, rfl⟩ | ⟨off, v, -, rfl⟩ | ⟨a, -, rfl, -⟩ |
    ⟨a, v, -, rfl, -⟩ | ⟨-, -, he⟩ | ⟨-, -, rfl⟩ | ⟨-, rfl⟩
  · exact h.engineTurn he
  · exact h.hostReadWord off
  · exact h.regWrite off v
  · exact h.of_eq rfl rfl rfl rfl rfl rfl
  · exact h.hostStoreByte a v
  · exact (h.withSchedule _).engineTurn he
  · exact h.hostReadWord _
  · exact inv_resetInput h.mem

/-- Every step that answers a next state keeps the invariant. -/
theorem Inv.step {s t : State} (h : Inv s) (ht : step s = .next t) : Inv t := by
  cases hs : s.schedule with
  | nil => exact h.engineTurn (step_nil hs ▸ ht)
  | cons e rest => exact (h.withSchedule rest).runEvent (step_cons hs ▸ ht)

/-! ## The platform -/

@[simp] theorem effectOf_platform (i : Instr) (s : State) : (effectOf i s).platform = s.platform := by
  cases i using instr_kind_cases with
  | filter sel bd ct => rw [effectOf_filterInstr, filterDone_platform]
  | _ => rfl

theorem engineTurn_platform {s t : State} (h : engineTurn s = .next t) : t.platform = s.platform := by
  rcases engineTurn_next h with ⟨-, rfl⟩ | ⟨-, ⟨e, rfl⟩ | ⟨i, -, -, rfl | rfl⟩⟩ <;> simp

@[simp] theorem regWrite_platform (off : BitVec 12) (v : Word) (s : State) :
    (regWrite off v s).platform = s.platform := by
  unfold regWrite
  split
  · obtain ⟨-, -, hplatform, -⟩ := writeReg_frame _ v s
    exact hplatform
  · rfl

theorem runEvent_platform {e : Event} {s t : State} (h : runEvent e s = .next t) : t.platform = s.platform := by
  rcases runEvent_next h with ⟨-, he⟩ | ⟨off, -, rfl⟩ | ⟨off, v, -, rfl⟩ | ⟨a, -, rfl, -⟩ |
    ⟨a, v, -, rfl, -⟩ | ⟨-, -, he⟩ | ⟨-, -, rfl⟩ | ⟨-, rfl⟩
  · exact engineTurn_platform he
  · rfl
  · exact regWrite_platform off v s
  · rfl
  · rfl
  · exact (engineTurn_platform he).trans rfl
  · rfl
  · rfl

/-- No step changes the platform's parameters (R22, U1). -/
theorem step_platform {s t : State} (h : step s = .next t) : t.platform = s.platform := by
  cases hs : s.schedule with
  | nil => exact engineTurn_platform (step_nil hs ▸ h)
  | cons e rest => exact runEvent_platform (s := { s with schedule := rest }) (step_cons hs ▸ h)

end Sys2Proof.Machine

open Sys2Proof.Machine

/-- Settles O55, over the engine's turn and every event of the schedule. -/
theorem everyStepKeepsInvariant : Obligations.EveryStepKeepsInvariant := by
  unfold Obligations.EveryStepKeepsInvariant
  exact fun _ _ hinv hstep => ⟨hinv.step hstep, step_platform hstep⟩

/-- Settles O2: the reset state has no memory listed and no command in progress. -/
theorem resetMeetsInvariant : Obligations.ResetMeetsInvariant := by
  unfold Obligations.ResetMeetsInvariant
  exact ⟨rfl, by decide, by decide, holdsLatched_of_idle rfl⟩
end

section
/-! PROOFS. The engine's turn: the placed word, the latched command, and the live registers no command reads
(10_state.md R21, R44, R45, R47, R49, 30_encoding.md R99). -/

namespace Sys2Proof.Machine

/-! ## The bits and fields of a word -/

theorem getLsbD_eq_decide (w : Word) (k : Nat) : w.getLsbD k = decide (w.toNat / 2 ^ k % 2 = 1) :=
  Nat.testBit_eq_decide_div_mod_eq

theorem toNat_field (w : Word) (k n : Nat) : (w.extractLsb' k n).toNat = w.toNat / 2 ^ k % 2 ^ n := by
  rw [BitVec.extractLsb'_toNat, Nat.shiftRight_eq_div_pow]

/-! ## Decoding an encoded instruction -/

theorem toNat_filterWord {fsel bd ct : Nat} (hf : fsel < 8) (hbd : bd < 256) (hct : ct < 256) :
    (filterWord fsel bd ct).toNat = 1 + 16 * fsel + 256 * bd + 65536 * ct := by
  rw [filterWord, BitVec.toNat_ofNat, Nat.mod_eq_of_lt hbd, Nat.mod_eq_of_lt hct]
  omega

theorem filterReservedClear_iff (w : Word) :
    filterReservedClear w = true ↔ w.toNat / 2 ^ 24 % 2 ^ 8 = 0 ∧ w.toNat / 2 ^ 7 % 2 = 0 := by
  rw [filterReservedClear, getLsbD_eq_decide, Bool.and_eq_true, beq_iff_eq, ← BitVec.toNat_inj, toNat_field]
  simp

/-- The fields of format F, read back from the word they are laid out in (R90 to R93). -/
theorem decode_filterWord {fsel bd ct : Nat} {i : Instr} (hf : fsel < 8) (h : formatFieldsFit bd ct = true)
    (hi : filterOfFsel fsel bd ct = some i) : decode (filterWord fsel bd ct) = .ok i := by
  simp only [formatFieldsFit, Bool.and_eq_true, decide_eq_true_eq] at h
  have hw := toNat_filterWord hf h.1 h.2
  have hop : opField (filterWord fsel bd ct) = 1 := by
    rw [opField, toNat_field, hw]; omega
  have hfsel : fselField (filterWord fsel bd ct) = fsel := by
    rw [fselField, toNat_field, hw]; omega
  have hbd : bdField (filterWord fsel bd ct) = bd := by
    rw [bdField, toNat_field, hw]; omega
  have hct : ctField (filterWord fsel bd ct) = ct := by
    rw [ctField, toNat_field, hw]; omega
  have hclear : filterReservedClear (filterWord fsel bd ct) = true := by
    rw [filterReservedClear_iff, hw]; omega
  simp [decode, decodeFilter, hop, hfsel, hbd, hct, hclear, hi]

/-- The decoder reads back every instruction that has an encoding (R99). -/
theorem decode_encode {i : Instr} (h : WellFormed i = true) : decode (encode i) = .ok i := by
  cases i with
  | nop => decide
  | filterNone bd ct => exact decode_filterWord (by decide) h rfl
  | filterSub bd ct => exact decode_filterWord (by decide) h rfl
  | filterUp bd ct => exact decode_filterWord (by decide) h rfl
  | filterAvg bd ct => exact decode_filterWord (by decide) h rfl
  | filterPaeth bd ct => exact decode_filterWord (by decide) h rfl
  | filterAuto bd ct => exact decode_filterWord (by decide) h rfl
  | frame => decide
  | crc => decide

/-! ## The engine's turn -/

theorem engineTurn_idle {s : State} (h : s.status.busy = false) : engineTurn s = .next s := by
  simp [engineTurn, h]

theorem engineTurn_ok {s : State} {i : Instr} (hb : s.status.busy = true) (hd : decode s.latCmd = .ok i) :
    engineTurn s = exec i s := by
  simp [engineTurn, runLatched, hb, hd]

theorem engineTurn_error {s : State} {d : DecodeError} (hb : s.status.busy = true)
    (hd : decode s.latCmd = .error d) : engineTurn s = .next (raiseError (decodeErrCode d) s) := by
  simp [engineTurn, runLatched, hb, hd]

theorem step_engine {s : State} {rest : List Event} (h : s.schedule = .engine :: rest) :
    step s = engineTurn { s with schedule := rest } := step_cons h

/-- While BUSY a wait is the engine's turn with the wait still to come (log 2). -/
theorem step_wait_busy {s : State} {rest : List Event} (hb : s.status.busy = true)
    (h : s.schedule = .wait :: rest) : step s = engineTurn s := by
  have hs : { s with schedule := .wait :: rest } = s := by rw [← h]
  rw [step_cons h]
  exact (if_pos hb).trans (congrArg engineTurn hs)

/-- While IDLE a wait is its last poll, one STATUS read (R100). -/
theorem step_wait_idle {s : State} {rest : List Event} (hb : s.status.busy = false)
    (h : s.schedule = .wait :: rest) :
    step s = .next (hostReadWord Reg.status.offset { s with schedule := rest }) := by
  rw [step_cons h]
  exact if_neg (by simp [hb])

/-- A STATUS read of an IDLE block shows the completion exactly when DONE is set (R71). -/
theorem showsCompletion_status_idle {s : State} (hb : s.status.busy = false) :
    showsCompletion Reg.status.offset s = s.status.done := by simp [showsCompletion, hb]

/-- A placed word runs at the next step, as its decoded instruction, in the state that accepted it (log 3). -/
theorem step_withFetchWord {s : State} {w : Word} {i : Instr} (h : decode w = .ok i) :
    step (s.withFetchWord 32 w.toNat) = exec i (accept w s) := by
  have hw : BitVec.ofNat 32 (w.toNat % 2 ^ 32) = w := by
    rw [Nat.mod_eq_of_lt w.isLt, BitVec.ofNat_toNat, BitVec.setWidth_eq]
  rw [State.withFetchWord, hw, step_engine (acceptNow_schedule s w)]
  exact engineTurn_ok rfl h

/-! ## No command reads the live registers -/

/-- An outcome with its next state changed; a fault or a refusal stays. -/
def mapNext (f : State → State) : Host.Outcome State Fault Refusal → Host.Outcome State Fault Refusal
  | .next s => .next (f s)
  | .fault r => .fault r
  | .refused r => .refused r

/-- The live parameter registers, IRQ_EN and OVR changed, each by a function of its own. -/
def mapLive (fp : Params → Params) (fe fo : Bool → Bool) (s : State) : State :=
  { s with
    params := fp s.params
    irqEn := fe s.irqEn
    status := { s.status with ovr := fo s.status.ovr } }

variable (fp : Params → Params) (fe fo : Bool → Bool)

/-- Each effect works on the latches, memory, the results and the other STATUS fields. -/
theorem effectOf_mapLive (i : Instr) (s : State) :
    effectOf i (mapLive fp fe fo s) = mapLive fp fe fo (effectOf i s) := by
  cases i using instr_kind_cases with
  | filter sel bd ct => rw [effectOf_filterInstr]; rfl
  | _ => rfl

/-- The platform's say over a command looks at no live register, and ERR_BUS changes none (R66, R205). -/
theorem guardAccess_mapLive {effect : State → State} (reads writes : AddrRange) (s : State)
    (h : effect (mapLive fp fe fo s) = mapLive fp fe fo (effect s)) :
    guardAccess reads writes effect (mapLive fp fe fo s) =
      mapNext (mapLive fp fe fo) (guardAccess reads writes effect s) := by
  have hp : (mapLive fp fe fo s).platform = s.platform := rfl
  have hbus : busFailure writes (mapLive fp fe fo s) = mapLive fp fe fo (busFailure writes s) := rfl
  unfold guardAccess
  rw [hp, h, hbus]
  split_ifs <;> rfl

theorem runChecked_mapLive {effect : State → State} (failed : Option ErrCode) (reads writes : AddrRange)
    (s : State) (h : effect (mapLive fp fe fo s) = mapLive fp fe fo (effect s)) :
    runChecked failed reads writes effect (mapLive fp fe fo s) =
      mapNext (mapLive fp fe fo) (runChecked failed reads writes effect s) := by
  cases failed with
  | some e => rfl
  | none => exact guardAccess_mapLive fp fe fo reads writes s h

/-- A command commutes with any change of the live registers (R45, R50, R75). -/
theorem exec_mapLive (i : Instr) (s : State) :
    exec i (mapLive fp fe fo s) = mapNext (mapLive fp fe fo) (exec i s) := by
  rw [exec_eq_runChecked, exec_eq_runChecked]
  exact runChecked_mapLive fp fe fo _ _ _ s (effectOf_mapLive fp fe fo i s)

theorem engineTurn_mapLive (s : State) :
    engineTurn (mapLive fp fe fo s) = mapNext (mapLive fp fe fo) (engineTurn s) := by
  by_cases hb : s.status.busy = true
  · cases hd : decode s.latCmd with
    | ok i => rw [engineTurn_ok hb hd, engineTurn_ok (s := mapLive fp fe fo s) hb hd, exec_mapLive]
    | error d => rw [engineTurn_error hb hd, engineTurn_error (s := mapLive fp fe fo s) hb hd]; rfl
  · rw [Bool.not_eq_true] at hb
    rw [engineTurn_idle hb, engineTurn_idle (s := mapLive fp fe fo s) hb]; rfl

end Sys2Proof.Machine

open Sys2Proof Sys2Proof.Machine

/-- Settles O5, by the decoder's round trip. -/
theorem placedWordRunsItsInstruction : Obligations.PlacedWordRunsItsInstruction := by
  unfold Obligations.PlacedWordRunsItsInstruction
  exact fun s i hwf => step_withFetchWord (decode_encode hwf)

/-- Settles O26: the command commutes with the exchange, so each outcome is exchanged or stays. -/
theorem commandIgnoresLiveRegisters : Obligations.CommandIgnoresLiveRegisters := by
  unfold Obligations.CommandIgnoresLiveRegisters
  intro i s p en ov
  have h := exec_mapLive (fun _ => p) (fun _ => en) (fun _ => ov) i s
  refine ⟨fun t ht => ?_, fun r hr => ?_, fun r hr => ?_⟩
  · rw [ht] at h; exact h
  · rw [hr] at h; exact h
  · rw [hr] at h; exact h

/-- Settles O4, schedule by schedule: no event left, the engine's event, and the wait. -/
theorem stepRunsLatchedCommand : Obligations.StepRunsLatchedCommand := by
  unfold Obligations.StepRunsLatchedCommand
  refine fun s => ⟨fun i hb hd => ⟨fun hs => ?_, fun rest hs => ?_, fun rest hs => ?_⟩,
    fun d hb hd => ⟨fun hs => ?_, fun rest hs => ?_, fun rest hs => ?_⟩,
    fun hb => ⟨fun hs => ?_, fun rest hs => ?_, fun rest hs => ?_⟩⟩
  · rw [step_nil hs, engineTurn_ok hb hd]
  · rw [step_engine hs]; exact engineTurn_ok hb hd
  · rw [step_wait_busy hb hs, engineTurn_ok hb hd]
  · rw [step_nil hs, engineTurn_error hb hd]
  · rw [step_engine hs]; exact engineTurn_error hb hd
  · rw [step_wait_busy hb hs, engineTurn_error hb hd]
  · rw [step_nil hs, engineTurn_idle hb]
  · rw [step_engine hs]; exact engineTurn_idle hb
  · rw [step_wait_idle hb hs, hostReadWord, showsCompletion_status_idle (s := { s with schedule := rest }) hb]; rfl
end

section
/-! PROOFS. The register window: reads, writes, reserved bits and acceptance (10_state.md R22 to R49, R52). -/

namespace Sys2Proof.Machine

/-! ## The steps of the host's register accesses -/

theorem step_regRead {s : State} {off : BitVec 12} {rest : List Event} (ha : off.toNat % 4 = 0)
    (h : s.schedule = .regRead off .word :: rest) :
    step s = .next (hostReadWord off { s with schedule := rest }) := by
  rw [step_cons h]
  exact if_pos (by simp [alignedWord, ha])

theorem step_regWrite {s : State} {off : BitVec 12} {v : Word} {rest : List Event} (ha : off.toNat % 4 = 0)
    (h : s.schedule = .regWrite off .word v :: rest) :
    step s = .next (regWrite off v { s with schedule := rest }) := by
  rw [step_cons h]
  exact if_pos (by simp [alignedWord, ha])

/-- A register write at the register's own offset. -/
theorem step_wr {s : State} {r : Reg} {v : Word} {rest : List Event} (h : s.schedule = wr r v :: rest) :
    step s = .next (writeReg r v { s with schedule := rest }) := by
  rw [step_regWrite r.offset_aligned h, regWrite_offset]

theorem step_cmdWrite {s : State} {w : Word} {rest : List Event} (h : s.schedule = cmdWrite w :: rest) :
    step s = .next (writeCmd w { s with schedule := rest }) := step_wr (r := .cmd) h

theorem not_alignedWord {off : BitVec 12} {size : AccessSize} (h : size ≠ .word ∨ off.toNat % 4 ≠ 0) :
    ¬ alignedWord off size = true := by
  rcases h with h | h <;> simp [alignedWord, h]

theorem writeCmd_idle {s : State} (h : s.status.busy = false) (w : Word) : writeCmd w s = accept w s := by
  simp [writeCmd, h]

theorem writeCmd_busy {s : State} (h : s.status.busy = true) (w : Word) :
    writeCmd w s = { s with status := s.status.dropped } := if_pos h

/-! ## Offsets and registers -/

theorem Reg.offset_of_ofOffset {off : BitVec 12} {r : Reg} (h : Reg.ofOffset off = some r) : r.offset = off :=
  beq_iff_eq.1 (List.find?_some (p := fun r : Reg => r.offset == off) h)

theorem regRead_reserved (s : State) {off : BitVec 12} (h : 0x050 ≤ off.toNat) : regRead s off = 0#32 := by
  rw [regRead, Reg.ofOffset_reserved h]

theorem regWrite_reserved (s : State) (v : Word) {off : BitVec 12} (h : 0x050 ≤ off.toNat) :
    regWrite off v s = s := by
  rw [regWrite, Reg.ofOffset_reserved h]

/-- The read-only registers (10_state.md, register map). -/
def readOnlyRegs : List Reg :=
  [.id, .config, .crcResult, .outLen, .lastFilter, .costSub, .costUp, .costAvg, .costPaeth]

/-- The parameter registers (R31 to R38). -/
def paramRegs : List Reg := [.srcAddr, .srcLen, .dstAddr, .dstCap, .width, .height, .chunkType, .crcSeed]

theorem writeReg_readOnly {r : Reg} (h : r ∈ readOnlyRegs) (v : Word) (s : State) : writeReg r v s = s := by
  fin_cases h <;> rfl

/-- A write to a read-only register is ignored (R24). -/
theorem regWrite_readOnly {off : BitVec 12} (h : off ∈ readOnlyRegs.map Reg.offset) (v : Word) (s : State) :
    regWrite off v s = s := by
  obtain ⟨r, hr, rfl⟩ := List.mem_map.1 h
  rw [regWrite_offset, writeReg_readOnly hr]

/-- A write of CTRL or a parameter register changes live registers that no command reads (R49). -/
theorem writeReg_eq_mapLive {r : Reg} (h : r ∈ .ctrl :: paramRegs) (v : Word) :
    ∃ fp fe, ∀ s, writeReg r v s = mapLive fp fe id s := by
  fin_cases h
  · exact ⟨id, fun _ => v.getLsbD 0, fun _ => rfl⟩
  · exact ⟨fun p => { p with srcAddr := v }, id, fun _ => rfl⟩
  · exact ⟨fun p => { p with srcLen := v }, id, fun _ => rfl⟩
  · exact ⟨fun p => { p with dstAddr := v }, id, fun _ => rfl⟩
  · exact ⟨fun p => { p with dstCap := v }, id, fun _ => rfl⟩
  · exact ⟨fun p => { p with width := v }, id, fun _ => rfl⟩
  · exact ⟨fun p => { p with height := v }, id, fun _ => rfl⟩
  · exact ⟨fun p => { p with chunkType := v }, id, fun _ => rfl⟩
  · exact ⟨fun p => { p with crcSeed := v }, id, fun _ => rfl⟩

theorem readReg_writeReg_param {r : Reg} (h : r ∈ paramRegs) (v : Word) (s : State) :
    readReg (writeReg r v s) r = v := by
  fin_cases h <;> rfl

/-- A write of CTRL or a parameter register leaves what every other register reads as (R22). -/
theorem readReg_writeReg_of_ne {r r' : Reg} (h : r ∈ .ctrl :: paramRegs) (hne : r' ≠ r) (v : Word) (s : State) :
    readReg (writeReg r v s) r' = readReg s r' := by
  revert hne
  fin_cases h <;> cases r' <;> simp [readReg, writeReg, ctrlWord]

theorem regRead_writeReg_of_ne {r : Reg} (h : r ∈ .ctrl :: paramRegs) {off : BitVec 12} (hne : off ≠ r.offset)
    (v : Word) (s : State) : regRead (writeReg r v s) off = regRead s off := by
  unfold regRead
  cases hr : Reg.ofOffset off with
  | none => rfl
  | some r' =>
    have hoff := Reg.offset_of_ofOffset hr
    exact readReg_writeReg_of_ne h (fun heq => hne (heq ▸ hoff.symm)) v s

/-! ## The bits of a register -/

theorem getLsbD_eq_of_toNat {w : Word} {k : Nat} {b : Bool} (h : w.toNat / 2 ^ k % 2 = b.toNat) :
    w.getLsbD k = b := by
  rw [getLsbD_eq_decide, h]
  cases b <;> rfl

/-- The bits above a value's width are 0. -/
theorem getLsbD_eq_false_of_lt {w : Word} {n k : Nat} (h : w.toNat < 2 ^ n) (hk : n ≤ k) : w.getLsbD k = false :=
  Nat.testBit_lt_two_pow (h.trans_le (Nat.pow_le_pow_right (by decide) hk))

/-- A word's bit 0 alone, as a word. -/
theorem ofNat_getLsbD_zero (v : Word) : BitVec.ofNat 32 (v.getLsbD 0).toNat = v &&& 1#32 := by
  apply BitVec.eq_of_toNat_eq
  have h1 : (1#32).toNat = 1 := rfl
  rw [BitVec.toNat_and, h1, Nat.and_one_is_mod, BitVec.toNat_ofNat, getLsbD_eq_decide]
  rcases Nat.mod_two_eq_zero_or_one v.toNat with h | h <;> simp [h]

/-- STATUS has its flags in bits 0 to 3, ERRCODE in bits [7:4] and 0 above (R28). -/
theorem Status.word_fields (st : Status) :
    st.word.toNat < 2 ^ 8 ∧ st.word.getLsbD 0 = st.busy ∧ st.word.getLsbD 1 = st.done ∧
      st.word.getLsbD 2 = st.err ∧ st.word.getLsbD 3 = st.ovr ∧ st.word.extractLsb' 4 4 = st.errcode := by
  have hb := st.busy.toNat_le
  have hd := st.done.toNat_le
  have he := st.err.toNat_le
  have ho := st.ovr.toNat_le
  have hc := st.errcode.isLt
  have hw : st.word.toNat =
      st.busy.toNat + 2 * st.done.toNat + 4 * st.err.toNat + 8 * st.ovr.toNat + 16 * st.errcode.toNat := by
    rw [Status.word, BitVec.toNat_ofNat]
    omega
  refine ⟨by omega, getLsbD_eq_of_toNat (by omega), getLsbD_eq_of_toNat (by omega),
    getLsbD_eq_of_toNat (by omega), getLsbD_eq_of_toNat (by omega), BitVec.eq_of_toNat_eq ?_⟩
  rw [toNat_field]
  omega

theorem Status.word_high (st : Status) : st.word.extractLsb' 8 24 = 0#24 := by
  obtain ⟨hlt, -⟩ := st.word_fields
  apply BitVec.eq_of_toNat_eq
  rw [toNat_field, Nat.div_eq_of_lt hlt]
  rfl

theorem toNat_ctrlWord_lt (s : State) : (ctrlWord s).toNat < 2 ^ 1 := by
  cases h : s.irqEn <;> simp [ctrlWord, h]

theorem toNat_readReg_lastFilter (s : State) : (readReg s .lastFilter).toNat = s.results.lastFilter.toNat :=
  BitVec.toNat_setWidth_of_le (by decide)

/-- The W1C write looks at bits 1, 2 and 3 only (R29). -/
theorem Status.writeOneToClear_congr (st : Status) {v v' : Word} (h1 : v.getLsbD 1 = v'.getLsbD 1)
    (h2 : v.getLsbD 2 = v'.getLsbD 2) (h3 : v.getLsbD 3 = v'.getLsbD 3) :
    st.writeOneToClear v = st.writeOneToClear v' := by
  simp only [Status.writeOneToClear, h1, h2, h3]

/-- The reserved bits of CTRL, STATUS, LAST_FILTER and CONFIG read 0 (R24, R26 to R28, R41). -/
theorem readReg_reserved_bits (s : State) :
    (∀ k, 1 ≤ k → (readReg s .ctrl).getLsbD k = false) ∧
      (∀ k, 8 ≤ k → (readReg s .status).getLsbD k = false) ∧
      (∀ k, 3 ≤ k → (readReg s .lastFilter).getLsbD k = false) ∧
      (∀ k, 5 ≤ k → k ≤ 7 ∨ 12 ≤ k → (readReg s .config).getLsbD k = false) := by
  refine ⟨fun k hk => getLsbD_eq_false_of_lt (toNat_ctrlWord_lt s) hk,
    fun k hk => getLsbD_eq_false_of_lt (Status.word_fields s.status).1 hk,
    fun k hk => getLsbD_eq_false_of_lt ((toNat_readReg_lastFilter s).trans_lt s.results.lastFilter.isLt) hk,
    fun k hk h => ?_⟩
  change configValue.getLsbD k = false
  rcases h with h | h
  · interval_cases k <;> decide
  · exact getLsbD_eq_false_of_lt (by decide : configValue.toNat < 2 ^ 12) h

/-- At reset ID and CONFIG hold their constants and every other register 0 (R52). -/
theorem readReg_reset (r : Reg) :
    readReg State.reset r =
      if r.offset = 0x000#12 then 0x504E4701#32 else if r.offset = 0x004#12 then 0x00000416#32 else 0#32 := by
  cases r <;> rfl

end Sys2Proof.Machine

open Sys2Proof Sys2Proof.Machine

/-- Settles O14, by the fields of the STATUS word. -/
theorem statusFieldsRead : Obligations.StatusFieldsRead := by
  unfold Obligations.StatusFieldsRead
  intro s
  rw [show regRead s 0x00C#12 = s.status.word from regRead_offset s .status]
  obtain ⟨-, hbusy, hdone, herr, hovr, hcode⟩ := s.status.word_fields
  refine ⟨hbusy, hdone, herr, hovr, hcode, s.status.word_high, fun hwf hnone => ?_⟩
  obtain ⟨-, hzero, -⟩ := (Status.wf_iff _).1 hwf
  rw [hcode, hzero hnone]

/-- Settles O15, by the register at each offset: none from 0x050 on, a read-only one that ignores writes. -/
theorem reservedAndReadOnlyRegisters : Obligations.ReservedAndReadOnlyRegisters := by
  unfold Obligations.ReservedAndReadOnlyRegisters
  intro s v
  refine ⟨fun off h => ⟨regRead_reserved s h, regWrite_reserved s v h⟩, ?_, fun v' h0 => ?_,
    fun v' h1 h2 h3 => ?_, fun off h => regWrite_readOnly h v s, fun off rest ha hoff hs => ?_⟩
  · rw [show regRead s 0x008#12 = _ from regRead_offset s .ctrl,
      show regRead s 0x00C#12 = _ from regRead_offset s .status,
      show regRead s 0x03C#12 = _ from regRead_offset s .lastFilter,
      show regRead s 0x004#12 = _ from regRead_offset s .config]
    exact readReg_reserved_bits s
  · have hctrl (u : Word) : regWrite 0x008#12 u s = { s with irqEn := u.getLsbD 0 } := regWrite_offset .ctrl u s
    rw [hctrl, hctrl, h0]
  · have hstatus (u : Word) : regWrite 0x00C#12 u s = acknowledge u s := regWrite_offset .status u s
    rw [hstatus, hstatus, acknowledge, acknowledge, Status.writeOneToClear_congr _ h1 h2 h3]
  · rw [step_regWrite ha hs]
    rcases hoff with h | h
    · rw [regWrite_readOnly h]
    · rw [regWrite_reserved _ _ h]

/-- Settles O16: such a write is a change of live registers, and each register stands at its own offset. -/
theorem registerWriteChangesOnlyItsRegister : Obligations.RegisterWriteChangesOnlyItsRegister := by
  unfold Obligations.RegisterWriteChangesOnlyItsRegister
  intro s v rest off hoff hs
  obtain ⟨r, hr, rfl⟩ := List.mem_map.1 (show off ∈ (Reg.ctrl :: paramRegs).map Reg.offset from hoff)
  refine ⟨writeReg r v { s with schedule := rest }, step_wr hs, ?_,
    fun other hne => regRead_writeReg_of_ne hr hne v _, ?_⟩
  · rw [regRead_offset]
    rcases List.mem_cons.1 hr with rfl | hparam
    · exact ofNat_getLsbD_zero v
    · have hne : r.offset ≠ 0x008#12 := by fin_cases hparam <;> decide
      rw [readReg_writeReg_param hparam, if_neg hne]
  · obtain ⟨fp, fe, hw⟩ := writeReg_eq_mapLive hr v
    rw [hw]
    exact ⟨rfl, rfl, rfl, rfl, rfl, rfl, rfl, rfl⟩

/-- Settles O20: the engine's turn commutes with every change of the live registers. -/
theorem registerWritesWhileBusy : Obligations.RegisterWritesWhileBusy := by
  unfold Obligations.RegisterWritesWhileBusy
  refine fun s v hb => ⟨fun r hr => ?_, rfl, rfl⟩
  obtain ⟨fp, fe, hw⟩ := writeReg_eq_mapLive (List.mem_cons_of_mem .ctrl hr) v
  refine ⟨readReg_writeReg_param hr v s, by rw [hw]; exact hb, fun t ht => ⟨?_, fun w => rfl⟩⟩
  rw [hw, hw, engineTurn_mapLive, ht]
  rfl

/-- Settles O1, register by register, and 0 where no register stands. -/
theorem resetRegisterValues : Obligations.ResetRegisterValues := by
  unfold Obligations.ResetRegisterValues
  refine ⟨fun off ha => ?_, rfl, rfl⟩
  by_cases hlt : off.toNat < 0x050
  · obtain ⟨r, -, rfl⟩ := Reg.ofOffset_aligned hlt ha
    rw [regRead_offset, readReg_reset]
  · have hne {c : BitVec 12} (hc : c.toNat < 0x050) : off ≠ c := fun h => hlt (h ▸ hc)
    rw [regRead_reserved _ (by omega), if_neg (hne (by decide)), if_neg (hne (by decide))]

/-- Settles O12: the read leaves the block, and its reply is the register's value. -/
theorem registerReadHasNoSideEffect : Obligations.RegisterReadHasNoSideEffect := by
  unfold Obligations.RegisterReadHasNoSideEffect
  intro s off rest ha hs
  exact ⟨_, step_regRead ha hs, ⟨rfl, rfl, rfl, rfl, rfl, rfl, rfl, rfl⟩, rfl, rfl⟩

/-- Settles O13, by the register that stands at each offset. -/
theorem registerMapReads : Obligations.RegisterMapReads := by
  unfold Obligations.RegisterMapReads
  intro s
  have hctrl : ctrlWord s = if s.irqEn then 1#32 else 0#32 := by cases h : s.irqEn <;> simp [ctrlWord, h]
  exact ⟨regRead_offset s .id, regRead_offset s .config, (regRead_offset s .ctrl).trans hctrl,
    regRead_offset s .cmd, regRead_offset s .srcAddr, regRead_offset s .srcLen, regRead_offset s .dstAddr,
    regRead_offset s .dstCap, regRead_offset s .width, regRead_offset s .height, regRead_offset s .chunkType,
    regRead_offset s .crcSeed, regRead_offset s .crcResult, regRead_offset s .outLen,
    (congrArg BitVec.toNat (regRead_offset s .lastFilter)).trans (toNat_readReg_lastFilter s),
    regRead_offset s .costSub, regRead_offset s .costUp, regRead_offset s .costAvg, regRead_offset s .costPaeth⟩

/-- Settles O17: the step is the acknowledgement, whose STATUS fields R29 gives. -/
theorem statusWriteOneToClear : Obligations.StatusWriteOneToClear := by
  unfold Obligations.StatusWriteOneToClear
  intro s v rest hs
  have hstep : step s = .next (acknowledge v { s with schedule := rest }) := step_wr (r := .status) hs
  refine ⟨_, hstep, ?_⟩
  simp +contextual

/-- Settles O18: while IDLE the write of CMD is the acceptance of its word. -/
theorem acceptanceLatches : Obligations.AcceptanceLatches := by
  unfold Obligations.AcceptanceLatches
  intro s w rest hidle hs
  refine ⟨_, step_cmdWrite hs, ?_⟩
  rw [writeCmd_idle (s := { s with schedule := rest }) hidle]
  exact ⟨rfl, rfl, rfl, rfl, rfl, rfl, rfl, rfl⟩

/-- Settles O19: while BUSY the write of CMD drops its word. -/
theorem commandWordDroppedWhileBusy : Obligations.CommandWordDroppedWhileBusy := by
  unfold Obligations.CommandWordDroppedWhileBusy
  intro s w rest hbusy hs
  exact ⟨_, step_cmdWrite hs, writeCmd_busy (s := { s with schedule := rest }) hbusy w⟩

/-- Settles O21: neither access is an aligned word, so the window answers with the host's fault. -/
theorem unalignedRegisterAccessFaults : Obligations.UnalignedRegisterAccessFaults := by
  unfold Obligations.UnalignedRegisterAccessFaults
  intro s off size v rest h
  exact ⟨fun hs => (step_cons hs).trans (if_neg (not_alignedWord h)),
    fun hs => (step_cons hs).trans (if_neg (not_alignedWord h))⟩
end

section
/-! PROOFS. What a command may touch in memory and in the registers, and the host's side of memory (20_memory.md R60,
R62, R66, R71, 60_exceptions.md R205). -/

namespace Sys2Proof.Machine

/-! ## What every completed command leaves -/

/-- What no command changes, and the STATUS bits every completion sets (R48, R62, R204). -/
structure CommandFrame (s t : State) : Prop where
  irqEn : t.irqEn = s.irqEn
  params : t.params = s.params
  latCmd : t.latCmd = s.latCmd
  lat : t.lat = s.lat
  platform : t.platform = s.platform
  holds : t.holds = s.holds
  schedule : t.schedule = s.schedule
  replies : t.replies = s.replies
  ovr : t.status.ovr = s.status.ovr
  busy : t.status.busy = false
  done : t.status.done = true

theorem commandFrame_effectOf (i : Instr) (s : State) : CommandFrame s (effectOf i s) := by
  cases i using instr_kind_cases with
  | filter sel bd ct => rw [effectOf_filterInstr]; constructor <;> rfl
  | _ => constructor <;> rfl

theorem commandFrame_of_exec {i : Instr} {s t : State} (h : exec i s = .next t) : CommandFrame s t := by
  rcases exec_next h with ⟨e, -, rfl⟩ | ⟨-, rfl | rfl⟩
  · constructor <;> rfl
  · exact commandFrame_effectOf i s
  · constructor <;> rfl

@[simp] theorem effectOf_status (i : Instr) (s : State) : (effectOf i s).status = s.status.completed := by
  cases i using instr_kind_cases with
  | filter sel bd ct => rw [effectOf_filterInstr, filterDone_status]
  | _ => rfl

/-- A completed command has the results of its effect, or it ended with an error and left them (R48). -/
theorem results_of_exec {i : Instr} {s t : State} (h : exec i s = .next t) :
    (t.status.err = false ∧ t.results = (effectOf i s).results) ∨ t.results = s.results := by
  rcases exec_next h with ⟨e, -, rfl⟩ | ⟨-, rfl | rfl⟩
  · exact .inr rfl
  · exact .inl ⟨by simp, rfl⟩
  · exact .inr rfl

theorem results_of_exec_err {i : Instr} {s t : State} (h : exec i s = .next t) (he : t.status.err = true) :
    t.results = s.results := by
  rcases results_of_exec h with ⟨hok, -⟩ | hr
  · simp [he] at hok
  · exact hr

/-- Drawing no address draws nothing. -/
@[simp] theorem drawRange_empty (s : State) : drawRange AddrRange.empty s = s := rfl

/-- NOP and CRC have no write range: they write nothing, and ERR_BUS draws nothing (R62, R205). -/
theorem mem_of_exec_nop_or_crc {i : Instr} {s t : State} (hi : i = .nop ∨ i = .crc) (h : exec i s = .next t) :
    t.freeCtr = s.freeCtr ∧ t.mem = s.mem := by
  have hw : writeRange i s.lat = AddrRange.empty := by rcases hi with rfl | rfl <;> rfl
  have heff : (effectOf i s).freeCtr = s.freeCtr ∧ (effectOf i s).mem = s.mem := by
    rcases hi with rfl | rfl <;> exact ⟨rfl, rfl⟩
  rcases exec_next h with ⟨e, -, rfl⟩ | ⟨-, rfl | rfl⟩
  · exact ⟨rfl, rfl⟩
  · exact heff
  · rw [hw, busFailure_freeCtr, busFailure_mem, drawRange_empty]
    exact ⟨rfl, rfl⟩

/-! ## The ranges of R62 -/

@[simp] theorem filterInstr_ne (sel : FilterSel) (bd ct : Nat) :
    filterInstr sel bd ct ≠ .nop ∧ filterInstr sel bd ct ≠ .frame ∧ filterInstr sel bd ct ≠ .crc := by
  cases sel with
  | auto => exact ⟨nofun, nofun, nofun⟩
  | forced t => cases t <;> exact ⟨nofun, nofun, nofun⟩

@[simp] theorem AddrRange.empty_has (a : Nat) : AddrRange.empty.has a = false := by
  simp [AddrRange.has, AddrRange.empty]

theorem sourceRange_has (p : Params) (a : Nat) :
    (sourceRange p).has a = true ↔ p.srcAddr.toNat ≤ a ∧ a < p.srcAddr.toNat + p.srcLen.toNat :=
  AddrRange.has_eq_true _ a

theorem frameDestRange_has (p : Params) (a : Nat) :
    (frameDestRange p).has a = true ↔ p.dstAddr.toNat ≤ a ∧ a < p.dstAddr.toNat + (p.srcLen.toNat + 12) :=
  AddrRange.has_eq_true _ a

theorem filterDestRange_has (p : Params) (a : Nat) :
    (filterDestRange p).has a = true ↔
      p.dstAddr.toNat ≤ a ∧ a < p.dstAddr.toNat + (4 * p.width.toNat + 1) * p.height.toNat :=
  AddrRange.has_eq_true _ a

/-- The read range of every command but NOP is the source buffer (R62). -/
theorem readRange_has (i : Instr) (p : Params) (a : Nat) :
    (readRange i p).has a = true ↔
      i ≠ .nop ∧ p.srcAddr.toNat ≤ a ∧ a < p.srcAddr.toNat + p.srcLen.toNat := by
  cases i using instr_kind_cases with
  | nop => simp [readRange]
  | filter sel bd ct => rw [readRange_filterInstr, sourceRange_has]; simp
  | frame => rw [readRange, sourceRange_has]; simp
  | crc => rw [readRange, sourceRange_has]; simp

/-- Only FRAME and the FILTER commands have a write range, as long as their output (R62). -/
theorem writeRange_has (i : Instr) (p : Params) (a : Nat) :
    (writeRange i p).has a = true ↔
      i ≠ .nop ∧ i ≠ .crc ∧ p.dstAddr.toNat ≤ a ∧
        a < p.dstAddr.toNat +
          (if i = .frame then p.srcLen.toNat + 12 else (4 * p.width.toNat + 1) * p.height.toNat) := by
  cases i using instr_kind_cases with
  | nop => simp [writeRange]
  | filter sel bd ct => rw [writeRange_filterInstr, filterDestRange_has]; simp
  | frame => rw [writeRange, frameDestRange_has]; simp
  | crc => simp [writeRange]

/-- A command that passes its checks writes inside the address space (R137, R168). -/
theorem writeRange_end_le {i : Instr} {p : Params} (hv : commandOperandsValid i p) :
    (writeRange i p).base + (writeRange i p).len ≤ Config.addressSpace := by
  cases i using instr_kind_cases with
  | nop => exact Nat.zero_le _
  | filter sel bd ct =>
    rw [writeRange_filterInstr]
    exact ((commandOperandsValid_filterInstr sel bd ct p).1 hv).2.dest_end
  | frame => exact FrameOperandsValid.dest_end hv
  | crc => exact Nat.zero_le _

/-! ## What the Predictor and the Framer read -/

/-- Equal bytes in the source buffer are equal source bytes (R170, R174). -/
theorem sourceBytes_congr {s : State} {m : Memory} (h : sameBytes (sourceRange s.lat) s.mem m) :
    sourceBytes { s with mem := m } = sourceBytes s :=
  Memory.readBytes_congr fun _ hi =>
    (h _ ((sourceRange_has ..).2 ⟨Nat.le_add_right .., Nat.add_lt_add_left hi _⟩)).symm

/-- Row `y` of an image of `h` rows lies in the buffer of `bw * h` bytes (R120). -/
theorem rawRow_congr {m m' : Memory} {src bw h y : Nat} (hy : y < h)
    (hb : ∀ a, src ≤ a → a < src + bw * h → m.read a = m'.read a) :
    rawRow m src bw y = rawRow m' src bw y := by
  have hrow : y * bw + bw ≤ bw * h := by
    calc y * bw + bw = bw * (y + 1) := by ring
      _ ≤ bw * h := Nat.mul_le_mul_left bw hy
  exact Memory.readBytes_congr fun i hi => hb _ (by omega) (by omega)

theorem prevRow_congr {m m' : Memory} {src bw h y : Nat} (hy : y < h)
    (hb : ∀ a, src ≤ a → a < src + bw * h → m.read a = m'.read a) :
    prevRow m src bw y = prevRow m' src bw y := by
  cases y with
  | zero => rfl
  | succ k => exact rawRow_congr (Nat.lt_of_succ_lt hy) hb

theorem filteredBuffer_congr (sel : FilterSel) {m m' : Memory} {src bw h : Nat}
    (hb : ∀ a, src ≤ a → a < src + bw * h → m.read a = m'.read a) :
    filteredBuffer sel m src bw h = filteredBuffer sel m' src bw h := by
  have hrows : rawRows m src bw h = rawRows m' src bw h :=
    List.map_congr_left fun y hy => rawRow_congr (List.mem_range.1 hy) hb
  rw [filteredBuffer, filteredBuffer, hrows]

/-- The source buffer of valid FILTER operands is the whole image (R137). -/
theorem FilterOperandsValid.image_bytes {p : Params} (hv : FilterOperandsValid p) {m m' : Memory}
    (h : sameBytes (sourceRange p) m m') (a : Nat) (hlo : p.srcAddr.toNat ≤ a)
    (hhi : a < p.srcAddr.toNat + byteWidth p * p.height.toNat) : m.read a = m'.read a :=
  h a ((sourceRange_has p a).2 ⟨hlo, hhi.trans_eq (congrArg _ hv.length_eq.symm)⟩)

theorem filterResults_congr (sel : FilterSel) {s : State} {m : Memory} (hv : FilterOperandsValid s.lat)
    (h : sameBytes (sourceRange s.lat) s.mem m) :
    filterResults sel { s with mem := m } = filterResults sel s := by
  have hlast : s.lat.height.toNat - 1 < s.lat.height.toNat := Nat.sub_one_lt hv.height_pos.ne'
  simp only [filterResults, rawRow_congr hlast (hv.image_bytes h), prevRow_congr hlast (hv.image_bytes h)]

/-! ## The effect of a command, by its read range -/

theorem effectOf_results_congr {i : Instr} {s : State} {m : Memory} (hv : commandOperandsValid i s.lat)
    (h : sameBytes (readRange i s.lat) s.mem m) :
    (effectOf i { s with mem := m }).results = (effectOf i s).results := by
  cases i using instr_kind_cases with
  | nop => rfl
  | filter sel bd ct =>
    rw [readRange_filterInstr] at h
    rw [effectOf_filterInstr]
    exact filterResults_congr sel ((commandOperandsValid_filterInstr sel bd ct _).1 hv).2 h
  | frame =>
    have hb := sourceBytes_congr h
    simp only [effectOf_frame, frameDone_results, hb]
  | crc =>
    have hb := sourceBytes_congr h
    simp only [effectOf_crc, crcDone_results, hb]

/-- The effect of a command stores one block over its whole write range, the same block over every memory with the
same bytes in its read range (R62). -/
theorem effectOf_stores_block {i : Instr} {s : State} (hv : commandOperandsValid i s.lat) :
    ∃ bs : List Byte, bs.length = (writeRange i s.lat).len ∧
      ∀ m, sameBytes (readRange i s.lat) s.mem m →
        (effectOf i { s with mem := m }).mem = m.writeBytes (writeRange i s.lat).base bs := by
  cases i using instr_kind_cases with
  | nop => exact ⟨[], rfl, fun _ _ => rfl⟩
  | filter sel bd ct =>
    have hf := ((commandOperandsValid_filterInstr sel bd ct _).1 hv).2
    rw [readRange_filterInstr, writeRange_filterInstr, effectOf_filterInstr]
    refine ⟨_, length_filteredBuffer sel s.mem s.lat.srcAddr.toNat (byteWidth s.lat) s.lat.height.toNat,
      fun m h => ?_⟩
    rw [filteredBuffer_congr sel (hf.image_bytes h)]
    rfl
  | frame =>
    refine ⟨chunkBytes s.lat.chunkType (sourceBytes s), ?_, fun m h => ?_⟩
    · rw [length_chunkBytes, length_sourceBytes]; rfl
    · rw [← sourceBytes_congr h]; rfl
  | crc => exact ⟨[], rfl, fun _ _ => rfl⟩

/-- A byte outside the write range survives the effect (R62). -/
theorem read_effectOf_outside {i : Instr} {s : State} (hwf : s.mem.wf = true) (hv : commandOperandsValid i s.lat)
    {a : Nat} (ha : (writeRange i s.lat).has a = false) : (effectOf i s).mem.read a = s.mem.read a := by
  obtain ⟨bs, hlen, hmem⟩ := effectOf_stores_block hv
  have hend := writeRange_end_le hv
  rw [← hlen] at hend
  rw [hmem s.mem fun _ _ => rfl, Memory.read_writeBytes hwf bs hend, if_neg]
  rwa [hlen, ← AddrRange.has_eq_true, Bool.not_eq_true]

/-- A byte inside the write range after the effect depends on the bytes of the read range only (R62). -/
theorem sameBytes_effectOf {i : Instr} {s : State} {m : Memory} (hwf : s.mem.wf = true) (hwf' : m.wf = true)
    (hv : commandOperandsValid i s.lat) (h : sameBytes (readRange i s.lat) s.mem m) :
    sameBytes (writeRange i s.lat) (effectOf i s).mem (effectOf i { s with mem := m }).mem := by
  obtain ⟨bs, hlen, hmem⟩ := effectOf_stores_block hv
  have hend := writeRange_end_le hv
  rw [← hlen] at hend
  intro a ha
  rw [AddrRange.has_eq_true, ← hlen] at ha
  rw [hmem s.mem fun _ _ => rfl, hmem m h, Memory.read_writeBytes hwf bs hend, Memory.read_writeBytes hwf' bs hend,
    if_pos ha, if_pos ha]

/-- A byte outside the write range survives the command, whatever its completion (R62, R205). -/
theorem read_of_exec_outside {i : Instr} {s t : State} (hwf : s.mem.wf = true) (h : exec i s = .next t) {a : Nat}
    (ha : (writeRange i s.lat).has a = false) : t.mem.read a = s.mem.read a := by
  rcases exec_next h with ⟨e, -, rfl⟩ | ⟨hc, rfl | rfl⟩
  · rfl
  · exact read_effectOf_outside hwf ((checksOf_eq_none i s.lat).1 hc) ha
  · exact read_drawRange_outside hwf (writeRange_base_le i s.lat) ha

/-! ## Two runs of one command -/

/-- Two outcomes are the same stop, or next states in the relation. -/
inductive OutcomesAgree (R : State → State → Prop) :
    Host.Outcome State Fault Refusal → Host.Outcome State Fault Refusal → Prop
  | next {t u : State} (h : R t u) : OutcomesAgree R (.next t) (.next u)
  | fault (r : Fault) : OutcomesAgree R (.fault r) (.fault r)
  | refused (r : Refusal) : OutcomesAgree R (.refused r) (.refused r)

section OutcomesAgree

variable {R : State → State → Prop} {o o' : Host.Outcome State Fault Refusal}

theorem OutcomesAgree.of_next {t : State} (h : OutcomesAgree R o o') (ho : o = .next t) :
    ∃ u, o' = .next u ∧ R t u := by
  subst ho
  cases h with
  | next hR => exact ⟨_, rfl, hR⟩

theorem OutcomesAgree.of_fault {r : Fault} (h : OutcomesAgree R o o') (ho : o = .fault r) : o' = .fault r := by
  subst ho
  cases h
  rfl

theorem OutcomesAgree.of_refused {r : Refusal} (h : OutcomesAgree R o o') (ho : o = .refused r) :
    o' = .refused r := by
  subst ho
  cases h
  rfl

/-- The platform's say is the same over two states of one platform (R66, R205). -/
theorem guardAccess_agree {reads writes : AddrRange} {effect : State → State} {s s' : State}
    (hp : s'.platform = s.platform) (hbus : R (busFailure writes s) (busFailure writes s'))
    (heff : R (effect s) (effect s')) :
    OutcomesAgree R (guardAccess reads writes effect s) (guardAccess reads writes effect s') := by
  unfold guardAccess
  rw [hp]
  split_ifs
  · exact .refused _
  · exact .fault _
  · exact .next hbus
  · exact .next heff

end OutcomesAgree

/-- Two completions that show the host the same: STATUS, the results and, on success, the bytes of the range. -/
structure SameCompletion (writes : AddrRange) (t u : State) : Prop where
  status : u.status = t.status
  results : u.results = t.results
  bytes : t.status.err = false → sameBytes writes t.mem u.mem

/-- A command's outcome depends on memory through its read range only (R62). -/
theorem exec_withMem_agree {i : Instr} {s : State} {m : Memory} (hwf : s.mem.wf = true) (hwf' : m.wf = true)
    (h : sameBytes (readRange i s.lat) s.mem m) :
    OutcomesAgree (SameCompletion (writeRange i s.lat)) (exec i s) (exec i { s with mem := m }) := by
  rw [exec_eq_runChecked, exec_eq_runChecked]
  cases hc : checksOf i s.lat with
  | some e => exact .next ⟨rfl, rfl, nofun⟩
  | none =>
    have hv := (checksOf_eq_none i s.lat).1 hc
    have heff : SameCompletion (writeRange i s.lat) (effectOf i s) (effectOf i { s with mem := m }) :=
      ⟨by simp only [effectOf_status], effectOf_results_congr hv h, fun _ => sameBytes_effectOf hwf hwf' hv h⟩
    exact guardAccess_agree rfl ⟨rfl, rfl, nofun⟩ heff

/-! ## An error response of the memory system -/

/-- A command that passes its checks and meets an error response, no device and no address not admitted, is
stopped by ERR_BUS (R205). -/
theorem exec_busError {i : Instr} {s : State} (hv : commandOperandsValid i s.lat)
    (hdr : s.platform.meetsDevice (readRange i s.lat) = false)
    (hdw : s.platform.meetsDevice (writeRange i s.lat) = false)
    (har : s.platform.meetsKind .absent (readRange i s.lat) = false)
    (haw : s.platform.meetsKind .absent (writeRange i s.lat) = false)
    (hb : s.platform.meetsKind .busError (readRange i s.lat) = true ∨
      s.platform.meetsKind .busError (writeRange i s.lat) = true) :
    exec i s = .next (busFailure (writeRange i s.lat) s) := by
  rw [exec_eq_runChecked, (checksOf_eq_none i s.lat).2 hv]
  simp [runChecked, guardAccess, hdr, hdw, har, haw, hb]

/-! ## The host's side: observation and single bytes -/

theorem showsCompletion_iff (off : BitVec 12) (s : State) :
    showsCompletion off s = true ↔ off = 0x00C#12 ∧ s.status.busy = false ∧ s.status.done = true := by
  rw [showsCompletion, Bool.and_eq_true, Bool.and_eq_true, decide_eq_true_eq, Bool.not_eq_true', and_assoc]
  rfl

section GuardHostByte

variable {a : Nat} {hazard : Bool} {effect : State → State} {s : State}

theorem guardHostByte_window (hw : s.platform.window.has a = true) :
    guardHostByte a hazard effect s = .fault .hostAccess := by
  simp [guardHostByte, hw]

theorem guardHostByte_device (hw : s.platform.window.has a = false)
    (hd : s.platform.meetsKind .device (oneByte a) = true) :
    guardHostByte a hazard effect s = .refused .hostDevice := by
  simp [guardHostByte, hw, hd]

theorem guardHostByte_unmapped (hw : s.platform.window.has a = false)
    (hd : s.platform.meetsKind .device (oneByte a) = false)
    (hm : s.platform.meetsKind .absent (oneByte a) = true ∨ s.platform.meetsKind .busError (oneByte a) = true) :
    guardHostByte a hazard effect s = .fault .hostUnmapped := by
  simp [guardHostByte, hw, hd, hm]

end GuardHostByte

/-- A host access to a byte of memory, read or write, is under the platform's say (log 12). -/
theorem step_hostByte {s : State} {a : Word} {v : Byte} {rest : List Event}
    (h : s.schedule = .memRead a :: rest ∨ s.schedule = .memWrite a v :: rest) :
    ∃ hazard effect, step s = guardHostByte a.toNat hazard effect { s with schedule := rest } := by
  rcases h with h | h
  · exact ⟨_, _, step_cons h⟩
  · exact ⟨_, _, step_cons h⟩

end Sys2Proof.Machine

open Sys2Proof Sys2Proof.Machine

/-- Settles O23: neither command has a write range, so nothing is written and nothing is drawn. -/
theorem nopAndCrcFrame : Obligations.NopAndCrcFrame := by
  unfold Obligations.NopAndCrcFrame
  intro i s t hi h
  have f := commandFrame_of_exec h
  obtain ⟨hctr, hmem⟩ := mem_of_exec_nop_or_crc hi h
  refine ⟨f.irqEn, f.params, f.latCmd, f.lat, f.platform, f.holds, f.schedule, f.replies, hctr,
    fun a => by rw [hmem], f.ovr, f.busy, f.done, ?_, results_of_exec_err h, ?_⟩
  · rintro rfl
    rcases results_of_exec h with ⟨-, hr⟩ | hr <;> exact hr
  · rcases results_of_exec h with ⟨-, hr⟩ | hr
    · rcases hi with rfl | rfl <;> rw [hr] <;> rfl
    · rw [hr]

/-- Settles O24, by the frame of every command and FRAME's write range. -/
theorem frameFrame : Obligations.FrameFrame := by
  unfold Obligations.FrameFrame
  intro s t hwf h
  have f := commandFrame_of_exec h
  refine ⟨f.irqEn, f.params, f.latCmd, f.lat, f.platform, f.holds, f.schedule, f.replies, f.ovr, f.busy, f.done,
    ?_, fun a ha => ?_⟩
  · rcases results_of_exec h with ⟨-, hr⟩ | hr
    · rw [hr]; rfl
    · rw [hr]
  · rw [← frameDestRange_has, Bool.not_eq_true] at ha
    exact read_of_exec_outside hwf h ha

/-- Settles O25, by the frame of every command and FILTER's write range. -/
theorem filterFrame : Obligations.FilterFrame := by
  unfold Obligations.FilterFrame
  intro sel bd ct s t hwf h
  have f := commandFrame_of_exec h
  refine ⟨f.irqEn, f.params, f.latCmd, f.lat, f.platform, f.holds, f.schedule, f.replies, f.ovr, f.busy, f.done,
    ?_, fun a ha => ?_⟩
  · rcases results_of_exec h with ⟨-, hr⟩ | hr
    · rw [hr, effectOf_filterInstr]; rfl
    · rw [hr]
  · rw [← filterDestRange_has, Bool.not_eq_true] at ha
    exact read_of_exec_outside hwf h (by rwa [writeRange_filterInstr])

/-- Settles O27: the checks and the platform's say read no memory, and the effect only the read range. -/
theorem commandReadsOnlyItsReadRange : Obligations.CommandReadsOnlyItsReadRange := by
  unfold Obligations.CommandReadsOnlyItsReadRange
  refine ⟨fun i p a => ⟨readRange_has i p a, writeRange_has i p a⟩, fun i s m hwf hwf' hm => ?_⟩
  have hagree := exec_withMem_agree hwf hwf' hm
  refine ⟨fun t ht => ?_, fun r hr => hagree.of_fault hr, fun r hr => hagree.of_refused hr⟩
  obtain ⟨u, hu, hsame⟩ := hagree.of_next ht
  exact ⟨u, hu, hsame.status, hsame.results, hsame.bytes⟩

/-- Settles O48: the outcome is the model's ERR_BUS completion, which draws the write range only. -/
theorem busErrorCompletes : Obligations.BusErrorCompletes := by
  unfold Obligations.BusErrorCompletes
  intro i s hwf hv hdr hdw har haw hb
  have hbase := writeRange_base_le i s.lat
  exact ⟨_, exec_busError hv hdr hdw har haw hb, rfl, rfl, wf_drawRange hwf hbase,
    fun _ ha => read_drawRange_outside hwf hbase ha⟩

/-- Settles O54: a read gives the buffers back exactly when it shows the completion. -/
theorem observedCompletionReturnsBuffers : Obligations.ObservedCompletionReturnsBuffers := by
  unfold Obligations.ObservedCompletionReturnsBuffers
  intro s off rest ha hs
  refine ⟨_, step_regRead ha hs, fun hoff hbusy hdone => ?_, fun hnot => ?_⟩
  · exact if_pos ((showsCompletion_iff off _).2 ⟨hoff, hbusy, hdone⟩)
  · refine if_neg fun hshow => ?_
    obtain ⟨hoff, hbusy, hdone⟩ := (showsCompletion_iff off _).1 hshow
    rcases hnot with h | h | h
    · exact h hoff
    · exact Bool.false_ne_true (hbusy.symm.trans h)
    · exact Bool.false_ne_true (h.symm.trans hdone)

/-- Settles O60: both accesses go through the guard of host bytes, whose stops come in that order. -/
theorem hostMemoryAccessesStop : Obligations.HostMemoryAccessesStop := by
  unfold Obligations.HostMemoryAccessesStop
  intro s a v rest hs
  obtain ⟨hazard, effect, hstep⟩ := step_hostByte hs
  rw [hstep]
  exact ⟨fun hw => guardHostByte_window hw, fun hw hd => guardHostByte_device hw hd,
    fun hw hd hm => guardHostByte_unmapped hw hd hm⟩
end

section
/-! PROOFS. The opcode map and the decoder: the round trip, the rejected words, and how a rejected word completes
(30_encoding.md R90 to R99, section 4). -/

namespace Sys2Proof.Machine

/-! ## The decoder, opcode by opcode -/

theorem opField_eq (w : Word) : opField w = w.toNat % 16 := by simp [opField]

theorem fselField_eq (w : Word) : fselField w = w.toNat / 16 % 8 := toNat_field w 4 3

theorem bdField_eq (w : Word) : bdField w = w.toNat / 256 % 256 := toNat_field w 8 8

theorem ctField_eq (w : Word) : ctField w = w.toNat / 65536 % 256 := toNat_field w 16 8

theorem decode_of_op_nop {w : Word} (h : w.toNat % 16 = 0) : decode w = decodeSimple w .nop := by
  simp [decode, opField_eq, h]

theorem decode_of_op_filter {w : Word} (h : w.toNat % 16 = 1) : decode w = decodeFilter w := by
  simp [decode, opField_eq, h]

theorem decode_of_op_frame {w : Word} (h : w.toNat % 16 = 2) : decode w = decodeSimple w .frame := by
  simp [decode, opField_eq, h]

theorem decode_of_op_crc {w : Word} (h : w.toNat % 16 = 3) : decode w = decodeSimple w .crc := by
  simp [decode, opField_eq, h]

/-- The opcode alone rejects a word with OP in 4..15 (R95). -/
theorem decode_of_op_reserved {w : Word} (h : 4 ≤ w.toNat % 16) : decode w = .error .reservedOpcode := by
  unfold decode
  split
  case h_5 => rfl
  all_goals
    next hop =>
      rw [opField_eq] at hop
      omega

theorem op_cases (w : Word) :
    w.toNat % 16 = 0 ∨ w.toNat % 16 = 1 ∨ w.toNat % 16 = 2 ∨ w.toNat % 16 = 3 ∨ 4 ≤ w.toNat % 16 := by omega

/-! ## The two formats -/

theorem simpleReservedClear_iff (w : Word) : simpleReservedClear w = true ↔ w.toNat / 16 = 0 := by
  rw [simpleReservedClear, beq_iff_eq, ← BitVec.toNat_inj, toNat_field, BitVec.toNat_ofNat]
  omega

theorem decodeSimple_eq_ok_iff {w : Word} {i j : Instr} :
    decodeSimple w i = .ok j ↔ w.toNat / 16 = 0 ∧ i = j := by
  rw [decodeSimple, ← simpleReservedClear_iff]
  split_ifs with h <;> simp [h]

theorem decodeSimple_eq_error_iff {w : Word} {i : Instr} {d : DecodeError} :
    decodeSimple w i = .error d ↔ w.toNat / 16 ≠ 0 ∧ d = .reservedField := by
  rw [decodeSimple, ne_eq, ← simpleReservedClear_iff]
  split_ifs with h <;> simp [h, eq_comm]

theorem decodeFilter_eq_ok_iff {w : Word} {i : Instr} :
    decodeFilter w = .ok i ↔
      filterReservedClear w = true ∧ filterOfFsel (fselField w) (bdField w) (ctField w) = some i := by
  unfold decodeFilter
  cases filterReservedClear w <;> cases filterOfFsel (fselField w) (bdField w) (ctField w) <;> simp

theorem decodeFilter_eq_error_iff {w : Word} {d : DecodeError} :
    decodeFilter w = .error d ↔
      (filterReservedClear w = true → filterOfFsel (fselField w) (bdField w) (ctField w) = none) ∧
        d = .reservedField := by
  unfold decodeFilter
  cases filterReservedClear w <;> cases filterOfFsel (fselField w) (bdField w) (ctField w) <;> simp [eq_comm]

/-- Of the eight values of FSEL only 5 and 6 name no filter (R93, R96). -/
theorem filterOfFsel_eq_none_iff {fsel : Nat} (h : fsel < 8) (bd ct : Nat) :
    filterOfFsel fsel bd ct = none ↔ fsel = 5 ∨ fsel = 6 := by
  interval_cases fsel <;> simp [filterOfFsel]

/-! ## Encoding a decoded instruction -/

/-- A format-F instruction is laid out with the filter selection that named it (R93), and only BD and CT can keep it
from being well formed (R92). -/
theorem encode_of_filterOfFsel {fsel bd ct : Nat} {i : Instr} (h : filterOfFsel fsel bd ct = some i) :
    encode i = filterWord fsel bd ct ∧ WellFormed i = formatFieldsFit bd ct := by
  unfold filterOfFsel at h
  split at h <;> cases h <;> exact ⟨rfl, rfl⟩

theorem formatFieldsFit_fields (w : Word) : formatFieldsFit (bdField w) (ctField w) = true := by
  rw [formatFieldsFit, Bool.and_eq_true, decide_eq_true_eq, decide_eq_true_eq, bdField_eq, ctField_eq]
  omega

/-- With OP = 1 and the reserved bits clear, FSEL, BD and CT are all that is left of a word (R90). -/
theorem filterWord_fields {w : Word} (hop : w.toNat % 16 = 1) (hclear : filterReservedClear w = true) :
    filterWord (fselField w) (bdField w) (ctField w) = w := by
  rw [filterReservedClear_iff] at hclear
  rw [← BitVec.toNat_inj, fselField_eq, bdField_eq, ctField_eq, toNat_filterWord (by omega) (by omega) (by omega)]
  omega

/-- With bits [31:4] clear a word is its opcode (R94). -/
theorem encode_of_decodeSimple {w : Word} {i j : Instr} (hwf : WellFormed i = true)
    (hop : w.toNat % 16 = (encode i).toNat) (h : decodeSimple w i = .ok j) :
    encode j = w ∧ WellFormed j = true := by
  obtain ⟨hclear, rfl⟩ := decodeSimple_eq_ok_iff.1 h
  exact ⟨BitVec.eq_of_toNat_eq (by omega), hwf⟩

theorem encode_of_decodeFilter {w : Word} {i : Instr} (hop : w.toNat % 16 = 1) (h : decodeFilter w = .ok i) :
    encode i = w ∧ WellFormed i = true := by
  obtain ⟨hclear, hi⟩ := decodeFilter_eq_ok_iff.1 h
  obtain ⟨henc, hwf⟩ := encode_of_filterOfFsel hi
  exact ⟨henc.trans (filterWord_fields hop hclear), hwf.trans (formatFieldsFit_fields w)⟩

/-- The encoder gives back every word that decodes (R99). -/
theorem encode_decode {w : Word} {i : Instr} (h : decode w = .ok i) : encode i = w ∧ WellFormed i = true := by
  rcases op_cases w with hop | hop | hop | hop | hop
  · exact encode_of_decodeSimple (i := .nop) rfl hop (decode_of_op_nop hop ▸ h)
  · exact encode_of_decodeFilter hop (decode_of_op_filter hop ▸ h)
  · exact encode_of_decodeSimple (i := .frame) rfl hop (decode_of_op_frame hop ▸ h)
  · exact encode_of_decodeSimple (i := .crc) rfl hop (decode_of_op_crc hop ▸ h)
  · rw [decode_of_op_reserved hop] at h
    cases h

/-! ## The rejected words -/

/-- A valid OP with a reserved bit set, or with a reserved FSEL (R96). -/
def HasReservedField (w : Word) : Prop :=
  (w.toNat % 16 = 0 ∨ w.toNat % 16 = 2 ∨ w.toNat % 16 = 3) ∧ w.toNat / 16 ≠ 0 ∨
  w.toNat % 16 = 1 ∧
    (w.toNat / 2 ^ 24 ≠ 0 ∨ w.toNat / 128 % 2 = 1 ∨ w.toNat / 16 % 8 = 5 ∨ w.toNat / 16 % 8 = 6)

theorem decodeFilter_rejects_iff {w : Word} {d : DecodeError} (hop : w.toNat % 16 = 1) :
    decodeFilter w = .error d ↔ HasReservedField w ∧ d = .reservedField := by
  rw [decodeFilter_eq_error_iff, filterReservedClear_iff, fselField_eq, filterOfFsel_eq_none_iff (by omega),
    HasReservedField]
  refine and_congr_left fun _ => ?_
  omega

theorem decodeSimple_rejects_iff {w : Word} {i : Instr} {d : DecodeError}
    (hop : w.toNat % 16 = 0 ∨ w.toNat % 16 = 2 ∨ w.toNat % 16 = 3) :
    decodeSimple w i = .error d ↔ HasReservedField w ∧ d = .reservedField := by
  rw [decodeSimple_eq_error_iff, HasReservedField]
  refine and_congr_left fun _ => ?_
  omega

theorem decode_rejects_iff_of_valid_op {w : Word} (hop : w.toNat % 16 < 4) {d : DecodeError} :
    decode w = .error d ↔ HasReservedField w ∧ d = .reservedField := by
  rcases op_cases w with h | h | h | h | h
  · rw [decode_of_op_nop h, decodeSimple_rejects_iff (by omega)]
  · rw [decode_of_op_filter h, decodeFilter_rejects_iff h]
  · rw [decode_of_op_frame h, decodeSimple_rejects_iff (by omega)]
  · rw [decode_of_op_crc h, decodeSimple_rejects_iff (by omega)]
  · omega

theorem HasReservedField.op_lt {w : Word} (h : HasReservedField w) : w.toNat % 16 < 4 := by
  unfold HasReservedField at h
  omega

theorem decode_eq_reservedOpcode_iff (w : Word) : decode w = .error .reservedOpcode ↔ 4 ≤ w.toNat % 16 := by
  refine ⟨fun h => ?_, decode_of_op_reserved⟩
  by_contra hop
  obtain ⟨-, hd⟩ := (decode_rejects_iff_of_valid_op (by omega)).1 h
  cases hd

theorem decode_eq_reservedField_iff (w : Word) : decode w = .error .reservedField ↔ HasReservedField w := by
  refine ⟨fun h => ?_, fun h => (decode_rejects_iff_of_valid_op h.op_lt).2 ⟨h, rfl⟩⟩
  have hop : w.toNat % 16 < 4 := by
    by_contra hop
    rw [decode_of_op_reserved (by omega)] at h
    cases h
  exact ((decode_rejects_iff_of_valid_op hop).1 h).1

/-- Only the word 0 is a NOP (R96). -/
theorem decode_eq_nop_iff (w : Word) : decode w = .ok .nop ↔ w = 0#32 := by
  refine ⟨fun h => (encode_decode h).1.symm, ?_⟩
  rintro rfl
  decide

/-! ## The completion of a rejected word -/

/-- A rejected word written to CMD of an IDLE block is accepted, and the execution step ends it with its error
(R44, R95, R96). -/
theorem rejected_word_completes {s : State} {w : Word} {d : DecodeError} (hidle : s.status.busy = false)
    (hs : s.schedule = [cmdWrite w]) (hd : decode w = .error d) :
    ∃ t u, step s = .next t ∧ t.status.busy = true ∧ t.latCmd = w ∧ step t = .next u ∧
      u.status = { busy := false, done := true, err := true, ovr := s.status.ovr,
                   errcode := (decodeErrCode d).code } ∧
      u.mem = s.mem ∧ u.results = s.results := by
  have haccept : step s = .next (accept w { s with schedule := [] }) := by
    rw [step_cmdWrite hs, writeCmd_idle (s := { s with schedule := [] }) hidle]
  have hrun : step (accept w { s with schedule := [] }) =
      .next (raiseError (decodeErrCode d) (accept w { s with schedule := [] })) :=
    (step_nil rfl).trans (engineTurn_error rfl hd)
  exact ⟨_, _, haccept, rfl, rfl, hrun, rfl, rfl, rfl⟩

end Sys2Proof.Machine

open Sys2Proof Sys2Proof.Machine

/-- Settles O6, instruction by instruction: each field is read back from the word it is laid out in. -/
theorem decodeOfEncode : Obligations.DecodeOfEncode := by
  unfold Obligations.DecodeOfEncode
  exact fun i hwf => decode_encode hwf

/-- Settles O7, opcode by opcode: the fields are all that is left of a word whose reserved bits are clear. -/
theorem encodeOfDecode : Obligations.EncodeOfDecode := by
  unfold Obligations.EncodeOfDecode
  exact fun w i h => encode_decode h

/-- Settles O9, by the decoder's two rejections. -/
theorem decodeErrorsExactly : Obligations.DecodeErrorsExactly := by
  unfold Obligations.DecodeErrorsExactly
  exact fun w => ⟨decode_eq_reservedOpcode_iff w, decode_eq_reservedField_iff w⟩

/-- Settles O10: the opcode alone rejects the word. -/
theorem reservedOpcodeCompletes : Obligations.ReservedOpcodeCompletes := by
  unfold Obligations.ReservedOpcodeCompletes
  exact fun s w hidle hs hop => rejected_word_completes hidle hs (decode_of_op_reserved hop)

/-- Settles O11: the reserved field rejects the word, and a word that decodes to NOP is NOP's encoding. -/
theorem reservedFieldCompletes : Obligations.ReservedFieldCompletes := by
  unfold Obligations.ReservedFieldCompletes
  refine ⟨fun s w hidle hs hfield => ?_, decode_eq_nop_iff⟩
  obtain ⟨t, u, ht, -, -, hu, hstatus, hmem, hresults⟩ :=
    rejected_word_completes hidle hs ((decode_eq_reservedField_iff w).2 hfield)
  exact ⟨t, u, ht, hu, hstatus, hmem, hresults⟩

/-- Settles O3: the nine commands are the round trip of their encodings, the neighbours the decoder's rejections. -/
theorem opcodeMapWordsDecode : Obligations.OpcodeMapWordsDecode := by
  unfold Obligations.OpcodeMapWordsDecode
  refine ⟨decode_encode (i := .nop) rfl, decode_encode (i := .filterNone 8 6) rfl,
    decode_encode (i := .filterSub 8 6) rfl, decode_encode (i := .filterUp 8 6) rfl,
    decode_encode (i := .filterAvg 8 6) rfl, decode_encode (i := .filterPaeth 8 6) rfl,
    decode_encode (i := .filterAuto 8 6) rfl, decode_encode (i := .filterAuto 16 2) rfl,
    decode_encode (i := .frame) rfl, decode_encode (i := .crc) rfl, ?_, ?_, ?_, ?_, ?_⟩
  · exact (decode_eq_reservedField_iff _).2 (.inr (by decide))
  · exact (decode_eq_reservedField_iff _).2 (.inr (by decide))
  · exact (decode_eq_reservedField_iff _).2 (.inr (by decide))
  · exact (decode_eq_reservedField_iff _).2 (.inl (by decide))
  · exact decode_of_op_reserved (by decide)
end

section
/-! PROOFS. The Predictor: source rows, filtered bytes, costs, the heuristic, the inverse of the filters, the bytes and
results of a successful FILTER, and FILTER's checks (40_predictor.md). -/

namespace Sys2Proof.Machine

/-! ## Rows (R120) -/

theorem getD_rawRow (m : Memory) (src : Nat) {bw x : Nat} (y : Nat) (hx : x < bw) :
    (rawRow m src bw y).getD x 0#8 = m.read (src + y * bw + x) := Memory.getD_readBytes m _ _ x hx

theorem getD_zeroRow (bw x : Nat) : (zeroRow bw).getD x 0#8 = 0#8 := by
  by_cases hx : x < bw
  · exact List.getD_replicate _ hx
  · exact List.getD_eq_default _ _ (by simpa using hx)

@[simp] theorem byteAt_zeroRow (bw x : Nat) : byteAt (zeroRow bw) x = 0 :=
  congrArg BitVec.toNat (getD_zeroRow bw x)

/-- A list is the list of its own entries. -/
theorem map_getD_range {α : Type} (l : List α) (d : α) : ((List.range l.length).map fun x => l.getD x d) = l :=
  List.ext_getElem (by simp) fun i h _ => by
    have hi : i < l.length := by simpa using h
    simp [List.getD, hi]

/-- A number that fits the width is the value of its word. -/
theorem toNat_ofNat_of_lt {w n : Nat} (h : n < 2 ^ w) : (BitVec.ofNat w n).toNat = n :=
  (BitVec.toNat_ofNat n w).trans (Nat.mod_eq_of_lt h)

/-! ## The neighbours (R121) -/

/-- The left byte, and over the previous row the upper-left byte: 0 in the first four columns. -/
theorem leftOf_eq (row : List Byte) (x : Nat) :
    leftOf row x = if x < 4 then 0 else (row.getD (x - 4) 0#8).toNat := by
  by_cases hx : x < 4
  · rw [if_pos hx]; exact if_neg (Nat.not_le.2 hx)
  · rw [if_neg hx]; exact if_pos (Nat.not_lt.1 hx)

theorem upperLeftOf_eq (prev : List Byte) (x : Nat) :
    upperLeftOf prev x = if x < 4 then 0 else (prev.getD (x - 4) 0#8).toNat := leftOf_eq prev x

/-- The left byte, as the byte it is. -/
theorem leftOf_eq_toNat (row : List Byte) (x : Nat) :
    leftOf row x = (if x < 4 then 0#8 else row.getD (x - 4) 0#8).toNat := by
  rw [leftOf_eq, apply_ite BitVec.toNat]
  rfl

@[simp] theorem upperLeftOf_zeroRow (bw x : Nat) : upperLeftOf (zeroRow bw) x = 0 := by
  rw [upperLeftOf_eq, getD_zeroRow]
  exact ite_self 0

theorem byteAt_append {row : List Byte} (bs : List Byte) {x : Nat} (hx : x < row.length) :
    byteAt (row ++ bs) x = byteAt row x := congrArg BitVec.toNat (List.getD_append row bs 0#8 x hx)

theorem leftOf_append {row : List Byte} (bs : List Byte) {x : Nat} (hx : x ≤ row.length) :
    leftOf (row ++ bs) x = leftOf row x := by
  unfold leftOf
  split
  next hbpp =>
    have hpos : 0 < Config.bpp := by decide
    exact byteAt_append bs (by omega)
  · rfl

/-- The predictor at a position reads the row before that position only. -/
theorem predictorOf_append (t : FilterType) {row : List Byte} (bs prev : List Byte) {x : Nat} (hx : x ≤ row.length) :
    predictorOf t (row ++ bs) prev x = predictorOf t row prev x := by
  cases t <;> simp only [predictorOf, leftOf_append bs hx]

theorem differenceOf_append (t : FilterType) {row : List Byte} (bs prev : List Byte) {x : Nat}
    (hx : x < row.length) : differenceOf t (row ++ bs) prev x = differenceOf t row prev x := by
  rw [differenceOf, differenceOf, byteAt_append bs hx, predictorOf_append t bs prev hx.le]

/-! ## The Paeth predictor (R127) -/

theorem paethOf_eq_distances (a b c : Nat) :
    paethOf a b c =
      if ((b : Int) - c).natAbs ≤ ((a : Int) - c).natAbs ∧
          ((b : Int) - c).natAbs ≤ ((a : Int) + b - 2 * c).natAbs then a
      else if ((a : Int) - c).natAbs ≤ ((a : Int) + b - 2 * c).natAbs then b else c := by
  have hpa : (a : Int) + b - c - a = b - c := by ring
  have hpb : (a : Int) + b - c - b = a - c := by ring
  have hpc : (a : Int) + b - c - c = a + b - 2 * c := by ring
  simp only [paethOf, hpa, hpb, hpc]

/-- Under no previous row the left byte is at distance 0 of the estimate. -/
@[simp] theorem paethOf_zero_zero (a : Nat) : paethOf a 0 0 = a := by
  rw [paethOf_eq_distances, if_pos (by simp)]

/-! ## The filtered bytes (R129) -/

/-- The filtered byte is the raw byte less the predictor, modulo 256. -/
theorem filteredByte_eq_sub (t : FilterType) (row prev : List Byte) (x : Nat) :
    filteredByte t row prev x = row.getD x 0#8 - BitVec.ofNat 8 (predictorOf t row prev x) := by
  rw [filteredByte, differenceOf, byteAt, Int.sub_eq_add_neg, BitVec.ofInt_add, BitVec.ofInt_neg,
    BitVec.ofInt_natCast, BitVec.ofInt_natCast, BitVec.ofNat_toNat, BitVec.setWidth_eq, BitVec.sub_eq_add_neg]

theorem getD_filterRow (t : FilterType) {row : List Byte} (prev : List Byte) {x : Nat} (hx : x < row.length) :
    (filterRow t row prev).getD x 0#8 = filteredByte t row prev x := by
  simp [filterRow, List.getD, hx]

/-- A row with one more byte has one more filtered byte, the earlier ones as they were. -/
theorem filterRow_concat (t : FilterType) (row prev : List Byte) (v : Byte) :
    filterRow t (row ++ [v]) prev = filterRow t row prev ++ [filteredByte t (row ++ [v]) prev row.length] := by
  have hsame : ∀ x ∈ List.range row.length, filteredByte t (row ++ [v]) prev x = filteredByte t row prev x :=
    fun x hx => congrArg (BitVec.ofInt 8) (differenceOf_append t [v] prev (List.mem_range.1 hx))
  rw [filterRow, List.length_append, List.length_singleton, List.range_succ, List.map_append,
    List.map_congr_left hsame]
  rfl

/-! ## The costs (R130, R131) -/

/-- A row with one more byte costs the magnitude of that byte's difference more. -/
theorem costOf_concat (t : FilterType) (row prev : List Byte) (v : Byte) :
    costOf t (row ++ [v]) prev =
      costOf t row prev + (differenceOf t (row ++ [v]) prev row.length).natAbs := by
  have hsame : ∀ x ∈ List.range row.length,
      (differenceOf t (row ++ [v]) prev x).natAbs = (differenceOf t row prev x).natAbs :=
    fun x hx => congrArg Int.natAbs (differenceOf_append t [v] prev (List.mem_range.1 hx))
  rw [costOf, List.length_append, List.length_singleton, List.range_succ, List.map_append, List.sum_append,
    List.map_congr_left hsame]
  simp [costOf]

/-- The cost of a legal row fits its register (R131). -/
theorem costOf_lt (t : FilterType) {row : List Byte} (prev : List Byte) (h : row.length ≤ 2 ^ 24) :
    costOf t row prev < 2 ^ 32 := by
  have hc := costOf_le t row prev
  omega

/-! ## The heuristic (R132) -/

/-- A comparison keeps the best type so far, or replaces it by a strictly cheaper one. -/
theorem keepCheaper_cases (best : FilterType × Nat) (t : FilterType) (cost : Nat) :
    keepCheaper best t cost = best ∧ best.2 ≤ cost ∨ keepCheaper best t cost = (t, cost) ∧ cost < best.2 := by
  unfold keepCheaper
  split_ifs with h
  · exact .inr ⟨rfl, h⟩
  · exact .inl ⟨rfl, Nat.not_lt.1 h⟩

/-- The choice is the first cheapest type in the order Sub, Up, Average, Paeth. -/
theorem selectType_cases (k : Costs) :
    (selectType k = .sub ∧ k.sub ≤ k.up ∧ k.sub ≤ k.avg ∧ k.sub ≤ k.paeth) ∨
    (selectType k = .up ∧ k.up < k.sub ∧ k.up ≤ k.avg ∧ k.up ≤ k.paeth) ∨
    (selectType k = .avg ∧ k.avg < k.sub ∧ k.avg < k.up ∧ k.avg ≤ k.paeth) ∨
    (selectType k = .paeth ∧ k.paeth < k.sub ∧ k.paeth < k.up ∧ k.paeth < k.avg) := by
  unfold selectType
  rcases keepCheaper_cases (.sub, k.sub) .up k.up with ⟨h1, hup⟩ | ⟨h1, hup⟩ <;> rw [h1]
  · rcases keepCheaper_cases (.sub, k.sub) .avg k.avg with ⟨h2, havg⟩ | ⟨h2, havg⟩ <;> rw [h2]
    · rcases keepCheaper_cases (.sub, k.sub) .paeth k.paeth with ⟨h3, hp⟩ | ⟨h3, hp⟩ <;> rw [h3]
      · exact .inl ⟨rfl, hup, havg, hp⟩
      · exact .inr (.inr (.inr ⟨rfl, hp, hp.trans_le hup, hp.trans_le havg⟩))
    · rcases keepCheaper_cases (.avg, k.avg) .paeth k.paeth with ⟨h3, hp⟩ | ⟨h3, hp⟩ <;> rw [h3]
      · exact .inr (.inr (.inl ⟨rfl, havg, havg.trans_le hup, hp⟩))
      · exact .inr (.inr (.inr ⟨rfl, hp.trans havg, hp.trans (havg.trans_le hup), hp⟩))
  · rcases keepCheaper_cases (.up, k.up) .avg k.avg with ⟨h2, havg⟩ | ⟨h2, havg⟩ <;> rw [h2]
    · rcases keepCheaper_cases (.up, k.up) .paeth k.paeth with ⟨h3, hp⟩ | ⟨h3, hp⟩ <;> rw [h3]
      · exact .inr (.inl ⟨rfl, hup, havg, hp⟩)
      · exact .inr (.inr (.inr ⟨rfl, hp.trans hup, hp, hp.trans_le havg⟩))
    · rcases keepCheaper_cases (.avg, k.avg) .paeth k.paeth with ⟨h3, hp⟩ | ⟨h3, hp⟩ <;> rw [h3]
      · exact .inr (.inr (.inl ⟨rfl, havg.trans hup, havg, hp⟩))
      · exact .inr (.inr (.inr ⟨rfl, hp.trans (havg.trans hup), hp.trans havg, hp⟩))

/-! ## Row 0 (R140, R143, R145) -/

theorem differenceOf_paeth_zeroRow (row : List Byte) (bw x : Nat) :
    differenceOf .paeth row (zeroRow bw) x = differenceOf .sub row (zeroRow bw) x := by
  simp [differenceOf, predictorOf, aboveOf]

theorem differenceOf_up_zeroRow (row : List Byte) (bw x : Nat) :
    differenceOf .up row (zeroRow bw) x = byteAt row x := by
  simp [differenceOf, predictorOf, aboveOf]

theorem filterRow_paeth_zeroRow (row : List Byte) (bw : Nat) :
    filterRow .paeth row (zeroRow bw) = filterRow .sub row (zeroRow bw) := by
  simp only [filterRow, filteredByte, differenceOf_paeth_zeroRow]

theorem costOf_paeth_zeroRow (row : List Byte) (bw : Nat) :
    costOf .paeth row (zeroRow bw) = costOf .sub row (zeroRow bw) := by
  simp only [costOf, differenceOf_paeth_zeroRow]

theorem filterRow_up_zeroRow (row : List Byte) (bw : Nat) : filterRow .up row (zeroRow bw) = row := by
  have hbyte (x : Nat) : filteredByte .up row (zeroRow bw) x = row.getD x 0#8 := by
    rw [filteredByte, differenceOf_up_zeroRow, BitVec.ofInt_natCast, byteAt, BitVec.ofNat_toNat, BitVec.setWidth_eq]
  simp only [filterRow, hbyte]
  exact map_getD_range row 0#8

theorem costOf_up_zeroRow (row : List Byte) (bw : Nat) :
    costOf .up row (zeroRow bw) = (row.map BitVec.toNat).sum := by
  have hbytes : (List.range row.length).map (byteAt row) = row.map BitVec.toNat := by
    conv_rhs => rw [← map_getD_range row 0#8, List.map_map]
    rfl
  simp only [costOf, differenceOf_up_zeroRow, Int.natAbs_natCast, hbytes]

/-- At equal cost Sub comes before Paeth. -/
theorem selectType_ne_paeth {k : Costs} (h : k.paeth = k.sub) : selectType k ≠ .paeth := by
  intro hs
  rcases selectType_cases k with ⟨hk, -⟩ | ⟨hk, -⟩ | ⟨hk, -⟩ | ⟨-, hlt, -⟩
  · cases hk.symm.trans hs
  · cases hk.symm.trans hs
  · cases hk.symm.trans hs
  · omega

/-! ## The inverse of the filters (R146) -/

/-- One more filtered byte recovers one more raw byte, from the bytes already recovered. -/
theorem recoverRow_concat (t : FilterType) (prev filtered : List Byte) (f : Byte) :
    recoverRow t prev (filtered ++ [f]) =
      recoverRow t prev filtered ++
        [f + BitVec.ofNat 8 (predictorOf t (recoverRow t prev filtered) prev filtered.length)] := by
  have hsame : ∀ (row : List Byte), ∀ x ∈ List.range filtered.length,
      row ++ [(filtered ++ [f]).getD x 0#8 + BitVec.ofNat 8 (predictorOf t row prev x)] =
        row ++ [filtered.getD x 0#8 + BitVec.ofNat 8 (predictorOf t row prev x)] :=
    fun row x hx => by rw [List.getD_append _ _ _ _ (List.mem_range.1 hx)]
  rw [recoverRow, List.length_append, List.length_singleton, List.range_succ, List.foldl_append,
    List.foldl_ext _ _ _ hsame]
  simp [recoverRow]

/-- Byte by byte, each predictor is the one of the raw row, since it reads recovered bytes only. -/
theorem recoverRow_filterRow (t : FilterType) (row prev : List Byte) :
    recoverRow t prev (filterRow t row prev) = row := by
  induction row using List.reverseRecOn with
  | nil => rfl
  | append_singleton row v ih =>
    rw [filterRow_concat, recoverRow_concat, ih, length_filterRow, filteredByte_eq_sub,
      predictorOf_append t [v] prev le_rfl, BitVec.sub_add_cancel]
    simp

theorem toNat_number (t : FilterType) : (BitVec.ofNat 8 t.number).toNat = t.number :=
  toNat_ofNat_of_lt (t.number_le.trans_lt (by decide))

theorem ofNumber_number (t : FilterType) : FilterType.ofNumber t.number = t := by cases t <;> rfl

/-- The type byte names the filter to undo, and the row recovered is the next one's previous row (R135). -/
theorem recoverRows_encodeRows (sel : FilterSel) (prev : List Byte) (rows : List (List Byte)) :
    recoverRows prev (encodeRows sel prev rows) = rows := by
  induction rows generalizing prev with
  | nil => rfl
  | cons row rest ih =>
    simp only [encodeRows, encodeRow, recoverRows, toNat_number, ofNumber_number, recoverRow_filterRow, ih]

/-! ## The FilteredBuffer, byte by byte (R134) -/

/-- Entry `i` of part `y` of a concatenation of parts of one length. -/
theorem getD_flatten {α : Type} {n i : Nat} (hi : i < n) (d : α) {parts : List (List α)}
    (h : ∀ part ∈ parts, part.length = n) {y : Nat} (hy : y < parts.length) :
    parts.flatten.getD (y * n + i) d = (parts.getD y []).getD i d := by
  induction parts generalizing y with
  | nil => exact absurd hy (Nat.not_lt_zero y)
  | cons part rest ih =>
    obtain ⟨hpart, hrest⟩ := List.forall_mem_cons.1 h
    rw [List.flatten_cons]
    cases y with
    | zero =>
      rw [Nat.zero_mul, Nat.zero_add, List.getD_append _ _ _ _ (hpart ▸ hi)]
      rfl
    | succ k =>
      have hk : (k + 1) * n + i = part.length + (k * n + i) := by rw [hpart]; ring
      rw [hk, List.getD_append_right _ _ _ _ (Nat.le_add_right ..), Nat.add_sub_cancel_left,
        ih hrest (Nat.lt_of_succ_lt_succ hy)]
      rfl

/-- Row `y` of the output is raw row `y` under the raw row above it (R135). -/
theorem getD_encodeRows (sel : FilterSel) (prev : List Byte) {rows : List (List Byte)} {y : Nat}
    (hy : y < rows.length) :
    (encodeRows sel prev rows).getD y [] = encodeRow sel (rows.getD y []) ((prev :: rows).getD y []) := by
  induction rows generalizing prev y with
  | nil => exact absurd hy (Nat.not_lt_zero y)
  | cons row rest ih =>
    cases y with
    | zero => rfl
    | succ k => exact ih row (Nat.lt_of_succ_lt_succ hy)

theorem getD_rawRows (m : Memory) (src bw : Nat) {h y : Nat} (hy : y < h) :
    (rawRows m src bw h).getD y [] = rawRow m src bw y := by
  simp [rawRows, List.getD, hy]

/-- The rows above the raw rows of an image are its previous rows (R120). -/
theorem getD_zeroRow_rawRows (m : Memory) (src bw : Nat) {h y : Nat} (hy : y < h) :
    (zeroRow bw :: rawRows m src bw h).getD y [] = prevRow m src bw y := by
  cases y with
  | zero => rfl
  | succ k => exact getD_rawRows m src bw (Nat.lt_of_succ_lt hy)

theorem forall_length_encodeRows (sel : FilterSel) {bw : Nat} (prev : List Byte) {rows : List (List Byte)}
    (h : ∀ row ∈ rows, row.length = bw) : ∀ part ∈ encodeRows sel prev rows, part.length = bw + 1 := by
  induction rows generalizing prev with
  | nil => exact nofun
  | cons row rest ih =>
    obtain ⟨hrow, hrest⟩ := List.forall_mem_cons.1 h
    exact List.forall_mem_cons.2 ⟨by rw [length_encodeRow, hrow], ih row hrest⟩

theorem forall_length_rawRows (m : Memory) (src bw h : Nat) : ∀ row ∈ rawRows m src bw h, row.length = bw :=
  List.forall_mem_map.2 fun y _ => length_rawRow m src bw y

/-- Byte `i` of output row `y` of the FilteredBuffer. -/
theorem getD_filteredBuffer (sel : FilterSel) (m : Memory) (src : Nat) {bw h y i : Nat} (hy : y < h)
    (hi : i < bw + 1) :
    (filteredBuffer sel m src bw h).getD (y * (bw + 1) + i) 0#8 =
      (encodeRow sel (rawRow m src bw y) (prevRow m src bw y)).getD i 0#8 := by
  have hlen := forall_length_encodeRows sel (zeroRow bw) (forall_length_rawRows m src bw h)
  rw [filteredBuffer, getD_flatten hi _ hlen (by simpa using hy), getD_encodeRows sel _ (by simpa using hy),
    getD_rawRows m src bw hy, getD_zeroRow_rawRows m src bw hy]

/-! ## A successful FILTER (R138, R139) -/

/-- With valid operands on normal memory a FILTER command has its effect. -/
theorem exec_filter_valid {sel : FilterSel} {s : State} (hv : FilterOperandsValid s.lat)
    (hn : commandMemoryNormal (filterInstr sel 8 6) s = true) :
    exec (filterInstr sel 8 6) s = .next (filterDone sel s) := by
  rw [exec_valid ((checksOf_filterInstr ..).trans (filterChecks_eq_none.2 ⟨⟨rfl, rfl⟩, hv⟩)) hn,
    effectOf_filterInstr]

/-- Byte `i` of output row `y`, read back at its address after a successful FILTER. -/
theorem read_filterDone_row (sel : FilterSel) {s : State} (hwf : s.mem.wf = true) (hv : FilterOperandsValid s.lat)
    {y i : Nat} (hy : y < s.lat.height.toNat) (hi : i < byteWidth s.lat + 1) :
    (filterDone sel s).mem.read (s.lat.dstAddr.toNat + (y * (byteWidth s.lat + 1) + i)) =
      (encodeRow sel (rawRow s.mem s.lat.srcAddr.toNat (byteWidth s.lat) y)
        (prevRow s.mem s.lat.srcAddr.toNat (byteWidth s.lat) y)).getD i 0#8 := by
  have hin : y * (byteWidth s.lat + 1) + i < filterOutLen s.lat := by
    calc y * (byteWidth s.lat + 1) + i < (y + 1) * (byteWidth s.lat + 1) := by rw [Nat.succ_mul]; omega
      _ ≤ s.lat.height.toNat * (byteWidth s.lat + 1) := Nat.mul_le_mul_right _ hy
      _ = filterOutLen s.lat := Nat.mul_comm ..
  rw [read_filterDone hwf hv, if_pos (by omega), Nat.add_sub_cancel_left, getD_filteredBuffer sel _ _ hy hi]

/-- A row of valid operands has at most 2^24 bytes (R35). -/
theorem FilterOperandsValid.byteWidth_le {p : Params} (hv : FilterOperandsValid p) : byteWidth p ≤ 2 ^ 24 := by
  have hle := hv.width_le
  change 4 * p.width.toNat ≤ 2 ^ 24
  omega

/-- The output of valid operands fits DST_CAP, so its length fits OUT_LEN (R139). -/
theorem FilterOperandsValid.outLen_lt {p : Params} (hv : FilterOperandsValid p) : filterOutLen p < 2 ^ 32 :=
  hv.capacity.trans_lt p.dstCap.isLt

/-! ## FILTER's checks (R137) -/

/-- The checks in the rule's order, each as the arithmetic that passes it. -/
theorem filterChecks_eq (bd ct : Nat) (p : Params) :
    filterChecks bd ct p =
      if ¬ (bd = 8 ∧ ct = 6) then some .format
      else if ¬ (0 < p.width.toNat ∧ p.width.toNat ≤ 2 ^ 22 ∧ 0 < p.height.toNat) then some .dim
      else if ¬ p.srcLen.toNat = 4 * p.width.toNat * p.height.toNat then some .len
      else if ¬ (4 * p.width.toNat + 1) * p.height.toNat ≤ p.dstCap.toNat then some .cap
      else if ¬ (p.srcAddr.toNat + p.srcLen.toNat ≤ 2 ^ 32 ∧
          p.dstAddr.toNat + (4 * p.width.toNat + 1) * p.height.toNat ≤ 2 ^ 32) then some .range
      else if 0 < p.srcLen.toNat ∧ 0 < (4 * p.width.toNat + 1) * p.height.toNat ∧
          p.srcAddr.toNat < p.dstAddr.toNat + (4 * p.width.toNat + 1) * p.height.toNat ∧
          p.dstAddr.toNat < p.srcAddr.toNat + p.srcLen.toNat then some .overlap
      else none := by
  have hdim : (p.width.toNat = 0 ∨ Config.maxWidth < p.width.toNat ∨ p.height.toNat = 0) ↔
      ¬ (0 < p.width.toNat ∧ p.width.toNat ≤ 2 ^ 22 ∧ 0 < p.height.toNat) := by
    rw [show Config.maxWidth = 2 ^ 22 from rfl]
    omega
  have hlen : byteWidth p = 4 * p.width.toNat := rfl
  have hcap : p.dstCap.toNat < filterOutLen p ↔ ¬ (4 * p.width.toNat + 1) * p.height.toNat ≤ p.dstCap.toNat :=
    Nat.not_le.symm
  have hrange : ((sourceRange p).leaves || (filterDestRange p).leaves) = true ↔
      ¬ (p.srcAddr.toNat + p.srcLen.toNat ≤ 2 ^ 32 ∧
        p.dstAddr.toNat + (4 * p.width.toNat + 1) * p.height.toNat ≤ 2 ^ 32) := by
    rw [Bool.or_eq_true, AddrRange.leaves_eq_true, AddrRange.leaves_eq_true, not_and_or, Nat.not_le, Nat.not_le]
    rfl
  have hoverlap : (sourceRange p).meets (filterDestRange p) = true ↔
      0 < p.srcLen.toNat ∧ 0 < (4 * p.width.toNat + 1) * p.height.toNat ∧
        p.srcAddr.toNat < p.dstAddr.toNat + (4 * p.width.toNat + 1) * p.height.toNat ∧
        p.dstAddr.toNat < p.srcAddr.toNat + p.srcLen.toNat := overlap_eq_true
  simp only [filterChecks, hdim, hlen, hcap, hrange, hoverlap, ne_eq]

/-- A FILTER command whose checks fail ends with that error, which STATUS shows (R137, R203). -/
theorem exec_filter_fails {sel : FilterSel} {bd ct : Nat} {s : State} {e : ErrCode}
    (h : filterChecks bd ct s.lat = some e) :
    exec (filterInstr sel bd ct) s = .next (raiseError e s) ∧
      (raiseError e s).status =
        { busy := false, done := true, err := true, ovr := s.status.ovr, errcode := e.code } := by
  refine ⟨?_, rfl⟩
  rw [exec_eq_runChecked, checksOf_filterInstr, h]
  rfl

end Sys2Proof.Machine

open Sys2Proof Sys2Proof.Machine

/-- Settles O31: the bytes of the FilteredBuffer, read back row by row. -/
theorem filterWritesFilteredBuffer : Obligations.FilterWritesFilteredBuffer := by
  unfold Obligations.FilterWritesFilteredBuffer
  refine ⟨fun _ _ _ => rfl, ⟨rfl, rfl, rfl, rfl, rfl⟩, fun sel s hwf hv hn => ?_⟩
  refine ⟨_, exec_filter_valid hv hn, rfl, fun y hy => ⟨?_, fun x hx => ?_⟩⟩
  · have hread := read_filterDone_row sel hwf hv hy (Nat.succ_pos (byteWidth s.lat))
    exact (congrArg BitVec.toNat hread).trans (toNat_number _)
  · have hread := read_filterDone_row sel hwf hv hy (Nat.succ_lt_succ hx)
    rw [Nat.add_assoc, Nat.add_assoc, Nat.add_comm 1 x]
    exact hread.trans (getD_filterRow _ _ (by rwa [length_rawRow]))

/-- Settles O33: every result fits its register. -/
theorem filterResultRegisters : Obligations.FilterResultRegisters := by
  unfold Obligations.FilterResultRegisters
  intro sel s hv hn
  have hcost (t : FilterType) (y : Nat) (prev : List Byte) :
      (BitVec.ofNat 32 (costOf t (rawRow s.mem s.lat.srcAddr.toNat (byteWidth s.lat) y) prev)).toNat =
        costOf t (rawRow s.mem s.lat.srcAddr.toNat (byteWidth s.lat) y) prev :=
    toNat_ofNat_of_lt (costOf_lt t prev (by rw [length_rawRow]; exact hv.byteWidth_le))
  refine ⟨_, exec_filter_valid hv hn, toNat_ofNat_of_lt hv.outLen_lt, toNat_ofNat_of_lt ?_,
    hcost .sub _ _, hcost .up _ _, hcost .avg _ _, hcost .paeth _ _, rfl⟩
  exact (FilterType.number_le _).trans_lt (by decide)

/-- Settles O34: the filtered byte is the raw byte less the predictor, whose neighbours are these bytes. -/
theorem filteredBytesModulo256 : Obligations.FilteredBytesModulo256 := by
  unfold Obligations.FilteredBytesModulo256
  intro row prev x
  have hleft := leftOf_eq_toNat row x
  have hupper : upperLeftOf prev x = _ := leftOf_eq_toNat prev x
  refine ⟨?_, ?_, ?_, ?_, ?_⟩ <;> rw [filteredByte_eq_sub]
  · exact BitVec.sub_zero _
  · rw [predictorOf, hleft, BitVec.ofNat_toNat, BitVec.setWidth_eq]
  · rw [predictorOf, aboveOf, byteAt, BitVec.ofNat_toNat, BitVec.setWidth_eq]
  · rw [predictorOf, hleft]; rfl
  · rw [predictorOf, hleft, hupper]; rfl

/-- Settles O35, by the predictor's distances. -/
theorem paethTieOrder : Obligations.PaethTieOrder := by
  unfold Obligations.PaethTieOrder
  refine ⟨fun a b c => ?_, rfl, rfl⟩
  rw [paethOf_eq_distances]
  exact ⟨fun hb hc => if_pos ⟨hb, hc⟩, fun ha hb => (if_neg ha).trans (if_pos hb),
    fun ha hb => (if_neg ha).trans (if_neg hb)⟩

/-- Settles O36: the differences by their predictors, the costs byte by byte and by their bound. -/
theorem costFitsItsRegister : Obligations.CostFitsItsRegister := by
  unfold Obligations.CostFitsItsRegister
  refine ⟨by decide, fun t row prev => ⟨fun x => ?_, fun x => ?_, fun _ => ⟨rfl, costOf_concat t row prev⟩,
    fun hlen => ⟨costOf_le t row prev, costOf_lt t prev hlen⟩⟩⟩
  · have hbound := natAbs_differenceOf_le t row prev x
    refine ⟨by omega, by omega, ?_⟩
    rintro rfl
    simp [differenceOf, predictorOf]
  · rw [← leftOf_eq, ← upperLeftOf_eq]
    exact ⟨sub_zero _, rfl, rfl, rfl, rfl⟩

/-- Settles O37, comparison by comparison. -/
theorem selectionIsFirstStrictMinimum : Obligations.SelectionIsFirstStrictMinimum := by
  unfold Obligations.SelectionIsFirstStrictMinimum
  exact ⟨selectType_cases, fun row prev => selectType_cases (rowCosts row prev)⟩

/-- Settles O38: under a row of zeros Paeth predicts the left byte and Up predicts 0. -/
theorem firstRowCorners : Obligations.FirstRowCorners := by
  unfold Obligations.FirstRowCorners
  exact fun row => ⟨filterRow_paeth_zeroRow row _, costOf_paeth_zeroRow row _, filterRow_up_zeroRow row _,
    costOf_up_zeroRow row _, selectType_ne_paeth (costOf_paeth_zeroRow row _)⟩

/-- Settles O39, by induction on the row from its last byte. -/
theorem filterRowInverts : Obligations.FilterRowInverts := by
  unfold Obligations.FilterRowInverts
  exact recoverRow_filterRow

/-- Settles O40, by induction on the rows. -/
theorem filteredImageInverts : Obligations.FilteredImageInverts := by
  unfold Obligations.FilteredImageInverts
  exact recoverRows_encodeRows

/-- Settles O30: each clause is one branch of the checks. -/
theorem filterChecksInOrder : Obligations.FilterChecksInOrder := by
  unfold Obligations.FilterChecksInOrder
  intro sel bd ct s
  refine ⟨fun hf => exec_filter_fails ?_, fun hf hd => exec_filter_fails ?_,
    fun hf hd hl => exec_filter_fails ?_, fun hf hd hl hc => exec_filter_fails ?_,
    fun hf hd hl hc hr => exec_filter_fails ?_, fun hf hd hl hc hr hL hn hS hD => exec_filter_fails ?_⟩ <;>
    rw [filterChecks_eq]
  · rw [if_pos hf]
  · rw [if_neg (not_not.2 hf), if_pos hd]
  · rw [if_neg (not_not.2 hf), if_neg (not_not.2 hd), if_pos hl]
  · rw [if_neg (not_not.2 hf), if_neg (not_not.2 hd), if_neg (not_not.2 hl), if_pos hc]
  · rw [if_neg (not_not.2 hf), if_neg (not_not.2 hd), if_neg (not_not.2 hl), if_neg (not_not.2 hc), if_pos hr]
  · rw [if_neg (not_not.2 hf), if_neg (not_not.2 hd), if_neg (not_not.2 hl), if_neg (not_not.2 hc),
      if_neg (not_not.2 hr), if_pos ⟨hL, hn, hS, hD⟩]

/-- Settles O32: the rows are block reads of the source. -/
theorem rowsAreSourceBytes : Obligations.RowsAreSourceBytes := by
  unfold Obligations.RowsAreSourceBytes
  exact fun m src bw y x hx => ⟨getD_rawRow m src y hx, getD_zeroRow bw x, getD_rawRow m src y hx,
    length_rawRow m src bw y, length_prevRow m src bw y⟩
end

section
/-! PROOFS. The Framer: the CRC byte by byte and its continuation, the parts of a chunk, the checks of FRAME, and what
FRAME, CRC and NOP leave (41_framer.md). -/

namespace Sys2Proof.Machine

/-! ## CRC32 (R160, R161) -/

/-- Over no byte the inversions on entry and on exit cancel. -/
@[simp] theorem crc32_nil (seed : Word) : crc32 seed [] = seed := xor_ones_twice seed

/-- The inversion on exit is undone on entry, so a CRC is a seed to continue from. -/
theorem crc32_append (seed : Word) (A B : List Byte) : crc32 seed (A ++ B) = crc32 (crc32 seed A) B := by
  rw [crc32, crc32, crc32, List.foldl_append, xor_ones_twice]

theorem crc32_concat (seed : Word) (B : List Byte) (v : Byte) :
    crc32 seed (B ++ [v]) = crcByte (crc32 seed B ^^^ 0xFFFFFFFF#32) v ^^^ 0xFFFFFFFF#32 :=
  crc32_append seed B [v]

/-! ## The parts of a chunk (R6, R162, R163) -/

theorem toNat_getD_be32 (v : Word) {k : Nat} (hk : k < 4) :
    ((be32 v).getD k 0#8).toNat = v.toNat / 2 ^ (8 * (3 - k)) % 256 := by
  match k, hk with
  | 0, _ => exact toNat_field v 24 8
  | 1, _ => exact toNat_field v 16 8
  | 2, _ => exact toNat_field v 8 8
  | 3, _ => exact toNat_field v 0 8

/-- An entry of a part of a list is an entry of the list. -/
theorem getD_of_take_drop {α : Type} {l part : List α} {i n k : Nat} (h : (l.drop i).take n = part) (hk : k < n)
    (d : α) : l.getD (i + k) d = part.getD k d := by
  simp [← h, List.getD, hk]

section Chunk
variable (tag : Word) (payload : List Byte)

theorem take_chunkBytes : (chunkBytes tag payload).take 4 = be32 (BitVec.ofNat 32 payload.length) := rfl

theorem take_drop_chunkBytes_tag : ((chunkBytes tag payload).drop 4).take 4 = be32 tag := rfl

theorem drop_chunkBytes : (chunkBytes tag payload).drop 8 = payload ++ be32 (chunkCrc tag payload) := rfl

theorem take_drop_chunkBytes_payload : ((chunkBytes tag payload).drop 8).take payload.length = payload := by
  rw [drop_chunkBytes, List.take_left]

theorem drop_chunkBytes_crc :
    (chunkBytes tag payload).drop (8 + payload.length) = be32 (chunkCrc tag payload) := by
  rw [← List.drop_drop, drop_chunkBytes, List.drop_left]

/-- The bytes the CRC covers (R163). -/
theorem take_drop_chunkBytes_covered :
    ((chunkBytes tag payload).drop 4).take (4 + payload.length) = be32 tag ++ payload := by
  have hdrop : (chunkBytes tag payload).drop 4 = (be32 tag ++ payload) ++ be32 (chunkCrc tag payload) := rfl
  rw [hdrop]
  exact List.take_left' (by simp)

end Chunk

/-! ## Blocks of memory -/

/-- A block read inside a larger block read. -/
theorem Memory.take_drop_readBytes (m : Memory) (a : Nat) {i n N : Nat} (h : i + n ≤ N) :
    ((m.readBytes a N).drop i).take n = m.readBytes (a + i) n := by
  refine List.ext_getElem (by simp; omega) fun k _ _ => ?_
  simp [Memory.readBytes, Nat.add_assoc]

/-- The chunk read back after a successful FRAME (R170). -/
theorem readBytes_frameDone {s : State} (hwf : s.mem.wf = true) (hv : FrameOperandsValid s.lat) :
    (frameDone s).mem.readBytes s.lat.dstAddr.toNat (s.lat.srcLen.toNat + 12) =
      chunkBytes s.lat.chunkType (sourceBytes s) := by
  have hlen : (chunkBytes s.lat.chunkType (sourceBytes s)).length = s.lat.srcLen.toNat + 12 := by
    rw [length_chunkBytes, length_sourceBytes]
  have hread := Memory.readBytes_writeBytes hwf (chunkBytes s.lat.chunkType (sourceBytes s))
    (a := s.lat.dstAddr.toNat) (by rw [hlen]; exact hv.dest_end)
  rwa [hlen] at hread

/-- The chunk's payload slot holds the payload (R169). -/
theorem readBytes_frameDone_payload {s : State} (hwf : s.mem.wf = true) (hv : FrameOperandsValid s.lat) :
    (frameDone s).mem.readBytes (s.lat.dstAddr.toNat + 8) s.lat.srcLen.toNat = sourceBytes s := by
  rw [← Memory.take_drop_readBytes _ _ (by omega : 8 + s.lat.srcLen.toNat ≤ s.lat.srcLen.toNat + 12),
    readBytes_frameDone hwf hv, ← length_sourceBytes s, take_drop_chunkBytes_payload]

/-- The length field of a chunk of source bytes is SRC_LEN (R165). -/
theorem chunkBytes_sourceBytes (s : State) :
    chunkBytes s.lat.chunkType (sourceBytes s) =
      be32 s.lat.srcLen ++ be32 s.lat.chunkType ++ sourceBytes s ++
        be32 (chunkCrc s.lat.chunkType (sourceBytes s)) := by
  rw [chunkBytes, length_sourceBytes, BitVec.ofNat_toNat, BitVec.setWidth_eq]

/-! ## The checks, and what passes them -/

/-- A command whose check fails ends with that error (R203). -/
theorem exec_fails {i : Instr} {s : State} {e : ErrCode} (h : checksOf i s.lat = some e) :
    exec i s = .next (raiseError e s) := by
  rw [exec_eq_runChecked, h]
  rfl

theorem ErrCode.eq_bus_of_code {e : ErrCode} (h : e.code = ErrCode.bus.code) : e = .bus := by
  revert h
  cases e <;> decide

/-- A command that passes its checks ends with no error but ERR_BUS: its effect shows no error, and R205's
completion shows code 9. -/
theorem exec_ne_raiseError {i : Instr} {s : State} {e : ErrCode} (hc : checksOf i s.lat = none) (he : e ≠ .bus) :
    exec i s ≠ .next (raiseError e s) := by
  intro h
  rcases exec_next h with ⟨e', hc', -⟩ | ⟨-, ht | ht⟩
  · simp [hc] at hc'
  · have herr := congrArg (fun t : State => t.status.err) ht
    simp at herr
  · exact he (ErrCode.eq_bus_of_code (congrArg (fun t : State => t.status.errcode) ht))

/-- The checks of R168 in the rule's order, each as the arithmetic that passes it. -/
theorem frameChecks_eq (p : Params) :
    frameChecks p =
      if ¬ p.srcLen.toNat + 12 ≤ p.dstCap.toNat then some .cap
      else if ¬ (p.srcAddr.toNat + p.srcLen.toNat ≤ 2 ^ 32 ∧
          p.dstAddr.toNat + (p.srcLen.toNat + 12) ≤ 2 ^ 32) then some .range
      else if (sourceRange p).meets (frameDestRange p) = true ∧ p.srcAddr.toNat ≠ p.dstAddr.toNat + 8 then
        some .overlap
      else none := by
  have hcap : p.dstCap.toNat < frameOutLen p ↔ ¬ p.srcLen.toNat + 12 ≤ p.dstCap.toNat := Nat.not_le.symm
  have hrange : ((sourceRange p).leaves || (frameDestRange p).leaves) = true ↔
      ¬ (p.srcAddr.toNat + p.srcLen.toNat ≤ 2 ^ 32 ∧ p.dstAddr.toNat + (p.srcLen.toNat + 12) ≤ 2 ^ 32) := by
    rw [Bool.or_eq_true, AddrRange.leaves_eq_true, AddrRange.leaves_eq_true, not_and_or, Nat.not_le, Nat.not_le]
    rfl
  simp only [frameChecks, hcap, hrange, Bool.and_eq_true, decide_eq_true_eq]

theorem frameChecks_eq_overlap {p : Params} (hcap : p.srcLen.toNat + 12 ≤ p.dstCap.toNat)
    (hrange : p.srcAddr.toNat + p.srcLen.toNat ≤ 2 ^ 32 ∧ p.dstAddr.toNat + (p.srcLen.toNat + 12) ≤ 2 ^ 32)
    (hmeet : ¬ rangesApart p.srcAddr.toNat p.srcLen.toNat p.dstAddr.toNat (p.srcLen.toNat + 12))
    (hplace : p.srcAddr.toNat ≠ p.dstAddr.toNat + 8) : frameChecks p = some .overlap := by
  rw [← overlap_eq_false_iff, Bool.not_eq_false] at hmeet
  rw [frameChecks_eq, if_neg (not_not.2 hcap), if_neg (not_not.2 hrange), if_pos ⟨hmeet, hplace⟩]

/-- With valid operands on normal memory FRAME has its effect. -/
theorem exec_frame_valid {s : State} (hv : FrameOperandsValid s.lat) (hn : commandMemoryNormal .frame s = true) :
    exec .frame s = .next (frameDone s) := exec_valid (frameChecks_eq_none.2 hv) hn

/-- With a valid range on normal memory CRC has its effect. -/
theorem exec_crc_valid {s : State} (hv : CrcOperandsValid s.lat) (hn : commandMemoryNormal .crc s = true) :
    exec .crc s = .next (crcDone s) := exec_valid (crcChecks_eq_none.2 hv) hn

/-- The chunk fits DST_CAP, so its length fits OUT_LEN (R171). -/
theorem FrameOperandsValid.outLen_lt {p : Params} (hv : FrameOperandsValid p) : frameOutLen p < 2 ^ 32 :=
  hv.capacity.trans_lt p.dstCap.isLt

end Sys2Proof.Machine

open Sys2Proof Sys2Proof.Machine

/-- Settles O42, part by part, each byte by its place in its part. -/
theorem chunkLayout : Obligations.ChunkLayout := by
  unfold Obligations.ChunkLayout
  refine ⟨fun v => ⟨length_be32 v, fun k hk => toNat_getD_be32 v hk⟩, fun tag payload hlen => ?_⟩
  have hcrc := drop_chunkBytes_crc tag payload
  have hcovered := take_drop_chunkBytes_covered tag payload
  refine ⟨length_chunkBytes tag payload, take_chunkBytes tag payload, take_drop_chunkBytes_tag tag payload,
    take_drop_chunkBytes_payload tag payload, hcrc, hcovered ▸ hcrc, fun k hk => ⟨?_, ?_, ?_⟩⟩
  · have hbyte := getD_of_take_drop (l := chunkBytes tag payload) (i := 0) (take_chunkBytes tag payload) hk 0#8
    rw [Nat.zero_add] at hbyte
    rw [hbyte, toNat_getD_be32 _ hk, toNat_ofNat_of_lt hlen]
  · rw [getD_of_take_drop (take_drop_chunkBytes_tag tag payload) hk, toNat_getD_be32 _ hk]
  · have hpart := (congrArg (List.take 4) hcrc).trans (List.take_length (l := be32 (chunkCrc tag payload)))
    rw [getD_of_take_drop hpart hk, toNat_getD_be32 _ hk, hcovered, chunkCrc]

/-- Settles O44: the chunk is read back as it was stored, and its length fits OUT_LEN. -/
theorem frameWritesChunk : Obligations.FrameWritesChunk := by
  unfold Obligations.FrameWritesChunk
  intro s hwf hv hn
  exact ⟨_, exec_frame_valid hv hn, (readBytes_frameDone hwf hv).trans (chunkBytes_sourceBytes s), rfl,
    toNat_ofNat_of_lt hv.outLen_lt, rfl, rfl, rfl, rfl, rfl, rfl⟩

/-- Settles O45: a chunk depends on the tag and the payload only, and its payload slot holds the payload. -/
theorem frameInPlacePayload : Obligations.FrameInPlacePayload := by
  unfold Obligations.FrameInPlacePayload
  refine ⟨fun s s' hwf hwf' hv hv' hn hn' hplace hlen htag hpayload => ?_,
    fun s hcap hsrc hdst hplace hmeet => exec_fails (frameChecks_eq_overlap hcap ⟨hsrc, hdst⟩ hmeet hplace)⟩
  have hsource : sourceBytes s' = sourceBytes s := by rw [sourceBytes, hlen]; exact hpayload.symm
  refine ⟨_, _, exec_frame_valid hv hn, exec_frame_valid hv' hn', ?_, ?_⟩
  · rw [readBytes_frameDone hwf hv, ← hlen, readBytes_frameDone hwf' hv', htag, hsource]
  · rw [hplace, readBytes_frameDone_payload hwf hv, sourceBytes, hplace]

/-- Settles O41: the fold of the rule over an appended list, and the two vectors by evaluation. -/
theorem crcContinues : Obligations.CrcContinues := by
  unfold Obligations.CrcContinues
  exact ⟨crc32_nil, crc32_concat, fun A B => (crc32_append 0#32 A B).symm, by decide +kernel, by decide +kernel⟩

/-- Settles O43: each clause is one branch of the checks. -/
theorem frameChecksInOrder : Obligations.FrameChecksInOrder := by
  unfold Obligations.FrameChecksInOrder
  intro s
  refine ⟨fun hc => ⟨exec_fails ?_, rfl⟩, fun hc hr => ⟨exec_fails ?_, rfl⟩,
    fun hc hr hL hS hD hplace => ⟨exec_fails (frameChecks_eq_overlap hc hr (fun hapart => ?_) hplace), rfl⟩,
    fun hc hr hfree => exec_ne_raiseError (frameChecks_eq_none.2 ⟨hc, hr.1, hr.2, ?_⟩) nofun⟩
  · exact (frameChecks_eq s.lat).trans (if_pos hc)
  · exact (frameChecks_eq s.lat).trans ((if_neg (not_not.2 hc)).trans (if_pos hr))
  · rw [← overlap_eq_false_iff, overlap_eq_true.2 ⟨hL, Nat.succ_pos _, hS, hD⟩] at hapart
    simp at hapart
  · by_cases hplace : s.lat.srcAddr.toNat = s.lat.dstAddr.toNat + 8
    · exact .inl hplace
    · exact .inr fun a ha => by omega

/-- Settles O46, by CRC's one check and its effect; over no byte the CRC is the seed. -/
theorem crcCommandResult : Obligations.CrcCommandResult := by
  unfold Obligations.CrcCommandResult
  intro s
  refine ⟨fun hr => exec_fails (if_pos ((AddrRange.leaves_eq_true (sourceRange s.lat)).2 hr)),
    fun hr hn => ⟨_, exec_crc_valid hr hn, rfl, rfl, rfl, fun hL => ?_⟩⟩
  have hempty : sourceBytes s = [] := by rw [sourceBytes, hL]; rfl
  rw [crcDone_results, hempty]
  exact crc32_nil _

/-- Settles O47: NOP is the completion alone. -/
theorem nopOnlyCompletes : Obligations.NopOnlyCompletes := by
  unfold Obligations.NopOnlyCompletes
  exact fun _ => ⟨_, rfl, rfl⟩
end

section
/-! PROOFS. How a command ends, and the interrupt output (60_exceptions.md R200, R203, R209). -/

namespace Sys2Proof.Machine

/-! ## Errors of the checks (R200, R203) -/

/-- Every error but ERR_BUS shows a code of 1 to 8 (R200). -/
theorem ErrCode.code_range_of_ne_bus {e : ErrCode} (he : e ≠ .bus) : 1 ≤ e.code.toNat ∧ e.code.toNat ≤ 8 := by
  revert he
  cases e <;> decide

/-- A command that ends with an error other than ERR_BUS was ended by its checks: its effect shows no error, and
R205's completion shows code 9. -/
theorem exec_eq_raiseError_of_err {i : Instr} {s t : State} (h : exec i s = .next t) (herr : t.status.err = true)
    (hcode : t.status.errcode ≠ 9#4) : ∃ e, t = raiseError e s := by
  rcases exec_next h with ⟨e, -, rfl⟩ | ⟨-, rfl | rfl⟩
  · exact ⟨e, rfl⟩
  · simp at herr
  · exact absurd rfl hcode

/-- A command that ended with an error is IDLE, so the engine has nothing more to do for it (R203). -/
theorem step_raiseError_idle {e : ErrCode} {s : State} (h : s.schedule = []) :
    step (raiseError e s) = .next (raiseError e s) :=
  (step_nil (s := raiseError e s) h).trans (engineTurn_idle rfl)

/-! ## The interrupt output (R209) -/

theorem irq_of_done {s : State} (h : s.status.done = true) : irq s = s.irqEn := by simp [irq, h]

theorem irq_of_not_done {s : State} (h : s.status.done = false) : irq s = false := by simp [irq, h]

theorem irq_of_disabled {s : State} (h : s.irqEn = false) : irq s = false := by simp [irq, h]

end Sys2Proof.Machine

open Sys2Proof Sys2Proof.Machine

/-- Settles O28: such a command is one `raiseError`, which writes STATUS only and leaves the block IDLE. -/
theorem errorChangesOnlyStatus : Obligations.ErrorChangesOnlyStatus := by
  unfold Obligations.ErrorChangesOnlyStatus
  intro i s t h herr hcode
  obtain ⟨e, rfl⟩ := exec_eq_raiseError_of_err h herr hcode
  exact ⟨rfl, rfl, rfl, rfl, step_raiseError_idle, fun _ => rfl⟩

/-- Settles O29: a failing check ends the command with its error, never ERR_BUS; past the checks normal memory
lets the command have its effect. -/
theorem commandsCompleteOnNormalMemory : Obligations.CommandsCompleteOnNormalMemory := by
  unfold Obligations.CommandsCompleteOnNormalMemory
  intro i s hn
  cases hc : checksOf i s.lat with
  | some e =>
    have he : e ≠ .bus := fun hbus => checksOf_ne_bus i s.lat (hbus ▸ hc)
    exact ⟨_, exec_fails hc, rfl, rfl, .inr ⟨rfl, ErrCode.code_range_of_ne_bus he⟩⟩
  | none =>
    refine ⟨_, exec_valid hc hn, ?_⟩
    rw [effectOf_status]
    exact ⟨rfl, rfl, .inl ⟨rfl, rfl⟩⟩

/-- Settles O22: each operation sets DONE, clears DONE or clears IRQ_EN. -/
theorem interruptRisesAndFalls : Obligations.InterruptRisesAndFalls := by
  unfold Obligations.InterruptRisesAndFalls
  intro s
  refine ⟨rfl, fun hen => ⟨(irq_of_done rfl).trans hen, fun _ => (irq_of_done rfl).trans hen⟩, irq_of_disabled,
    fun v hv => irq_of_not_done ?_, fun _ hv => irq_of_disabled hv, fun _ => irq_of_not_done rfl, irq_of_disabled rfl⟩
  have hdone : (writeReg .status v s).status.done = (s.status.done && !v.getLsbD 1) := rfl
  rw [hdone, hv, Bool.not_true, Bool.and_false]
end

section
/-! PROOFS. Reset, buffer ownership and the schedule: what the reset input leaves, which accesses of the host the
hazard rule stops, and when a command ends (70_reset_and_hazards.md R240 to R246, R251). -/

namespace Sys2Proof.Machine

/-! ## The reset input (R240 to R242) -/

theorem readReg_resetInput (r : Reg) (s : State) : readReg (resetInput s) r = readReg State.reset r := by
  cases r <;> rfl

theorem abandon_idle {s : State} (h : s.status.busy = false) : abandon s = s := by simp [abandon, h]

/-- The reset input touches no byte outside the abandoned command's write range, BUSY or IDLE (R241, R242). -/
theorem read_abandon_outside {s : State} (hwf : s.mem.wf = true) {a : Nat}
    (ha : (wordWrites s.latCmd s.lat).has a = false) : (abandon s).mem.read a = s.mem.read a := by
  unfold abandon
  split
  · exact read_drawRange_outside hwf (wordWrites_base_le _ _) ha
  · rfl

/-! ## The buffers handed over (R245) -/

theorem readHazard_of_hold {s : State} {h : Hold} {a : Nat} (hmem : h ∈ s.holds) (ha : h.writes.has a = true) :
    readHazard a s = true :=
  List.any_eq_true.2 ⟨h, hmem, ha⟩

theorem writeHazard_of_hold {s : State} {h : Hold} {a : Nat} (hmem : h ∈ s.holds)
    (ha : h.reads.has a = true ∨ h.writes.has a = true) : writeHazard a s = true :=
  List.any_eq_true.2 ⟨h, hmem, Bool.or_eq_true_iff.2 ha⟩

/-- While BUSY the latched command's ranges are among the buffers handed over. -/
theorem Inv.latched_hold_mem {s : State} (h : Inv s) (hb : s.status.busy = true) :
    { reads := wordReads s.latCmd s.lat, writes := wordWrites s.latCmd s.lat } ∈ s.holds := by
  have hholds := h.holds
  rw [holdsLatched, hb, Bool.not_true, Bool.false_or, List.contains_iff_mem] at hholds
  exact hholds

/-- In normal memory a host read of a byte is the hazard fault or has its effect. -/
theorem step_memRead_normal {s : State} {a : Word} {rest : List Event}
    (hn : s.platform.normal (oneByte a.toNat) = true) (hs : s.schedule = .memRead a :: rest) :
    step s = if readHazard a.toNat s then .fault .hazard
      else .next (hostReadByte a { s with schedule := rest }) :=
  (step_cons hs).trans (guardHostByte_normal (s := { s with schedule := rest }) hn)

/-- In normal memory a host write of a byte is the hazard fault or has its effect. -/
theorem step_memWrite_normal {s : State} {a : Word} {v : Byte} {rest : List Event}
    (hn : s.platform.normal (oneByte a.toNat) = true) (hs : s.schedule = .memWrite a v :: rest) :
    step s = if writeHazard a.toNat s then .fault .hazard
      else .next (hostStoreByte a v { s with schedule := rest }) :=
  (step_cons hs).trans (guardHostByte_normal (s := { s with schedule := rest }) hn)

/-! ## The engine's turn (R47, R243) -/

/-- The engine's turn of a BUSY block completes the command, a reserved word's too (R95, R96). -/
theorem commandFrame_of_engineTurn {s t : State} (hb : s.status.busy = true) (h : engineTurn s = .next t) :
    CommandFrame s t := by
  cases hd : decode s.latCmd with
  | ok i => exact commandFrame_of_exec (engineTurn_ok hb hd ▸ h)
  | error d =>
    obtain rfl := Host.Outcome.next.inj ((engineTurn_error hb hd).symm.trans h)
    constructor <;> rfl

theorem engineTurn_holds {s t : State} (h : engineTurn s = .next t) : t.holds = s.holds := by
  cases hb : s.status.busy with
  | true => exact (commandFrame_of_engineTurn hb h).holds
  | false => rw [Host.Outcome.next.inj ((engineTurn_idle hb).symm.trans h)]

/-- The engine's turn changes the result registers at a successful completion only (R246). -/
theorem engineTurn_results {s t : State} (h : engineTurn s = .next t) :
    t.results = s.results ∨ (s.status.busy = true ∧ t.status.err = false) := by
  rcases engineTurn_next h with ⟨-, rfl⟩ | ⟨hb, ⟨e, rfl⟩ | ⟨i, -, -, rfl | rfl⟩⟩
  · exact .inl rfl
  · exact .inl rfl
  · exact .inr ⟨hb, by simp⟩
  · exact .inl rfl

theorem effectOf_withSchedule (i : Instr) (s : State) (es : List Event) :
    effectOf i { s with schedule := es } = { effectOf i s with schedule := es } := by
  cases i using instr_kind_cases with
  | filter sel bd ct => rw [effectOf_filterInstr]; rfl
  | _ => rfl

/-- No command looks at the events to come. -/
theorem exec_withSchedule {i : Instr} {s t : State} (h : exec i s = .next t) (es : List Event) :
    exec i { s with schedule := es } = .next { t with schedule := es } := by
  have hagree : OutcomesAgree (fun t u => u = { t with schedule := es })
      (exec i s) (exec i { s with schedule := es }) := by
    rw [exec_eq_runChecked, exec_eq_runChecked]
    cases checksOf i s.lat with
    | some e => exact .next rfl
    | none => exact guardAccess_agree rfl rfl (effectOf_withSchedule i s es)
  obtain ⟨u, hu, rfl⟩ := hagree.of_next h
  exact hu

theorem engineTurn_withSchedule {s t : State} (hb : s.status.busy = true) (h : engineTurn s = .next t)
    (es : List Event) : engineTurn { s with schedule := es } = .next { t with schedule := es } := by
  cases hd : decode s.latCmd with
  | ok i =>
    rw [engineTurn_ok hb hd] at h
    exact (engineTurn_ok (s := { s with schedule := es }) hb hd).trans (exec_withSchedule h es)
  | error d =>
    obtain rfl := Host.Outcome.next.inj ((engineTurn_error hb hd).symm.trans h)
    exact engineTurn_error (s := { s with schedule := es }) hb hd

/-! ## The host's interactions, beside a command in progress -/

/-- What every interaction of the host leaves: the result registers, the events to come, and a command in
progress with its word and operands (R243, R246). -/
structure HostFrame (s t : State) : Prop where
  results : t.results = s.results
  schedule : t.schedule = s.schedule
  inProgress : s.status.busy = true → t.status.busy = true ∧ t.latCmd = s.latCmd ∧ t.lat = s.lat

/-- A CMD write while BUSY is dropped (R46), so no register write touches a command in progress. -/
theorem hostFrame_writeReg (r : Reg) (v : Word) (s : State) : HostFrame s (writeReg r v s) := by
  obtain ⟨-, hresults, -, -, hschedule, -, hother⟩ := writeReg_frame r v s
  refine ⟨hresults, hschedule, fun hb => ?_⟩
  by_cases hr : r = .cmd
  · subst hr
    rw [show writeReg .cmd v s = _ from writeCmd_busy hb v]
    exact ⟨hb, rfl, rfl⟩
  · obtain ⟨hlatCmd, hlat, -, hbusy⟩ := hother hr
    exact ⟨hbusy.trans hb, hlatCmd, hlat⟩

theorem hostFrame_regWrite (off : BitVec 12) (v : Word) (s : State) : HostFrame s (regWrite off v s) := by
  unfold regWrite
  split
  · exact hostFrame_writeReg _ v s
  · exact ⟨rfl, rfl, fun hb => ⟨hb, rfl, rfl⟩⟩

/-- A register read gives buffers back at most (R71). -/
theorem hostFrame_hostReadWord (off : BitVec 12) (s : State) : HostFrame s (hostReadWord off s) :=
  ⟨rfl, rfl, fun hb => ⟨hb, rfl, rfl⟩⟩

/-- Every step that answers a next state is the engine's turn, the reset input, or an interaction of the host. -/
theorem step_next {s t : State} (h : step s = .next t) :
    (∃ es, engineTurn { s with schedule := es } = .next t) ∨
      (∃ rest, s.schedule = .reset :: rest ∧ t = resetInput { s with schedule := rest }) ∨
      (∃ e rest, s.schedule = e :: rest ∧ HostFrame { s with schedule := rest } t) := by
  cases hs : s.schedule with
  | nil => exact .inl ⟨s.schedule, step_nil hs ▸ h⟩
  | cons e rest =>
    rw [step_cons hs] at h
    rcases runEvent_next h with ⟨-, he⟩ | ⟨off, -, rfl⟩ | ⟨off, v, -, rfl⟩ | ⟨a, -, rfl, -⟩ |
      ⟨a, v, -, rfl, -⟩ | ⟨-, -, he⟩ | ⟨-, -, rfl⟩ | ⟨rfl, rfl⟩
    · exact .inl ⟨_, he⟩
    · exact .inr (.inr ⟨e, rest, rfl, hostFrame_hostReadWord off _⟩)
    · exact .inr (.inr ⟨e, rest, rfl, hostFrame_regWrite off v _⟩)
    · exact .inr (.inr ⟨e, rest, rfl, rfl, rfl, fun hb => ⟨hb, rfl, rfl⟩⟩)
    · exact .inr (.inr ⟨e, rest, rfl, rfl, rfl, fun hb => ⟨hb, rfl, rfl⟩⟩)
    · exact .inl ⟨_, he⟩
    · exact .inr (.inr ⟨e, rest, rfl, hostFrame_hostReadWord _ _⟩)
    · exact .inr (.inl ⟨rest, rfl, rfl⟩)

/-! ## Runs of several steps (R251) -/

theorem runFrom_succ_eq_next {k : Nat} {s u : State} :
    runFrom (k + 1) s = .next u ↔ ∃ t, step s = .next t ∧ runFrom k t = .next u := by
  simp only [runFrom, Host.Core.run]
  cases step s <;> simp

theorem runFrom_one_eq_next {s u : State} : runFrom 1 s = .next u ↔ step s = .next u := by
  rw [runFrom_succ_eq_next]
  constructor
  · rintro ⟨t, ht, htu⟩
    exact ht.trans htu
  · exact fun h => ⟨u, h, rfl⟩

theorem runFrom_two_of_steps {s t u : State} (ht : step s = .next t) (hu : step t = .next u) :
    runFrom 2 s = .next u :=
  runFrom_succ_eq_next.2 ⟨t, ht, runFrom_one_eq_next.2 hu⟩

/-- A step that leaves a command in progress has taken an event off the schedule: the engine's turn and the
reset input both leave the block IDLE. -/
theorem schedule_of_step_busy {s t : State} (hb : s.status.busy = true) (h : step s = .next t)
    (hbt : t.status.busy = true) : ∃ e, s.schedule = e :: t.schedule := by
  rcases step_next h with ⟨es, he⟩ | ⟨rest, -, rfl⟩ | ⟨e, rest, hs, hframe⟩
  · have hidle := (commandFrame_of_engineTurn (s := { s with schedule := es }) hb he).busy
    exact absurd (hidle.symm.trans hbt) Bool.false_ne_true
  · exact absurd hbt Bool.false_ne_true
  · exact ⟨e, hs.trans (congrArg (e :: ·) hframe.schedule.symm)⟩

/-- By induction on the events to come: the step ends the command, stops, or takes one event away. -/
theorem exists_idle_within (es : List Event) {s : State} (hs : s.schedule = es) (hb : s.status.busy = true) :
    ∃ k, k ≤ es.length + 1 ∧ ∀ u, runFrom k s = .next u → u.status.busy = false := by
  induction es generalizing s with
  | nil =>
    refine ⟨1, le_rfl, fun u hu => Bool.eq_false_iff.2 fun hbu => ?_⟩
    obtain ⟨e, he⟩ := schedule_of_step_busy hb (runFrom_one_eq_next.1 hu) hbu
    exact List.cons_ne_nil _ _ (he.symm.trans hs)
  | cons e rest ih =>
    by_cases hgo : ∃ t, step s = .next t ∧ t.status.busy = true
    · obtain ⟨t, ht, hbt⟩ := hgo
      obtain ⟨e', he'⟩ := schedule_of_step_busy hb ht hbt
      obtain ⟨k, hk, hidle⟩ := ih (List.cons.inj (he'.symm.trans hs)).2 hbt
      refine ⟨k + 1, Nat.succ_le_succ hk, fun u hu => ?_⟩
      obtain ⟨t', ht', hu'⟩ := runFrom_succ_eq_next.1 hu
      obtain rfl := Host.Outcome.next.inj (ht.symm.trans ht')
      exact hidle u hu'
    · exact ⟨1, Nat.succ_le_succ (Nat.zero_le _),
        fun u hu => Bool.eq_false_iff.2 fun hbu => hgo ⟨u, runFrom_one_eq_next.1 hu, hbu⟩⟩

/-- A CMD write dropped before the completion sets OVR and changes nothing else of the completion (R46). -/
theorem runFrom_dropped_then_completed {s t : State} (hb : s.status.busy = true) (h : engineTurn s = .next t)
    (w : Word) : runFrom 2 { s with schedule := [cmdWrite w, .engine] } =
      .next (mapLive id id (fun _ => true) { t with schedule := [] }) := by
  have hdrop := step_cmdWrite (s := { s with schedule := [cmdWrite w, .engine] }) rfl
  rw [writeCmd_busy (s := { s with schedule := [.engine] }) hb] at hdrop
  refine runFrom_two_of_steps hdrop ((step_engine rfl).trans ?_)
  have hlive := engineTurn_mapLive id id (fun _ => true) { s with schedule := [] }
  rw [engineTurn_withSchedule hb h] at hlive
  exact hlive

/-- A CMD write after the completion is accepted (R44). -/
theorem runFrom_completed_then_accepted {s t : State} (hb : s.status.busy = true) (h : engineTurn s = .next t)
    (w : Word) : runFrom 2 { s with schedule := [.engine, cmdWrite w] } =
      .next (accept w { t with schedule := [] }) := by
  have hidle : t.status.busy = false := (commandFrame_of_engineTurn hb h).busy
  refine runFrom_two_of_steps ((step_engine rfl).trans (engineTurn_withSchedule hb h [cmdWrite w])) ?_
  rw [step_cmdWrite (s := { t with schedule := [cmdWrite w] }) rfl]
  exact congrArg _ (writeCmd_idle (s := { t with schedule := [] }) hidle w)

end Sys2Proof.Machine

open Sys2Proof Sys2Proof.Machine

/-- Settles O50: the step is the reset input, whose one effect on memory is the abandoned command's draw. -/
theorem resetInputAtAnyTime : Obligations.ResetInputAtAnyTime := by
  unfold Obligations.ResetInputAtAnyTime
  intro s rest hwf hs
  refine ⟨resetInput { s with schedule := rest }, step_cons hs, fun r => readReg_resetInput r _, rfl, rfl,
    fun hidle => ?_, fun a ha => ?_⟩
  · rw [resetInput_mem, abandon_idle (s := { s with schedule := rest }) hidle]
  · exact read_abandon_outside (s := { s with schedule := rest }) hwf ha

/-- Settles O52: on normal memory the guard leaves only the hazard rule, and the invariant holds the buffers. -/
theorem hazardAccessesFault : Obligations.HazardAccessesFault := by
  unfold Obligations.HazardAccessesFault
  refine ⟨fun s a v rest hn => ⟨fun hz hs => ?_, fun hz hs => ?_⟩, fun s a hinv hb => ?_,
    fun s t h => engineTurn_holds h⟩
  · exact (step_memRead_normal hn hs).trans (if_pos hz)
  · exact (step_memWrite_normal hn hs).trans (if_pos hz)
  · have hmem := hinv.latched_hold_mem hb
    exact ⟨fun ha => readHazard_of_hold hmem ha, fun ha => writeHazard_of_hold hmem ha.symm⟩

/-- Settles O56: the host's interactions leave the results, and the engine's turn changes them at success only. -/
theorem resultsChangeOnlyAtSuccess : Obligations.ResultsChangeOnlyAtSuccess := by
  unfold Obligations.ResultsChangeOnlyAtSuccess
  intro s t h hne
  rcases step_next h with ⟨es, he⟩ | ⟨rest, hs, -⟩ | ⟨e, rest, -, hframe⟩
  · rcases engineTurn_results he with hsame | ⟨hb, herr⟩
    · exact absurd hsame hne
    · have hcompleted := commandFrame_of_engineTurn hb he
      exact .inr ⟨hb, hcompleted.busy, hcompleted.done, herr⟩
  · exact .inl ⟨rest, hs⟩
  · exact absurd hframe.results hne

/-- Settles O57: the engine's turn completes the command, and no interaction of the host disturbs it. -/
theorem commandRunsToCompletion : Obligations.CommandRunsToCompletion := by
  unfold Obligations.CommandRunsToCompletion
  intro s t h hb
  rcases step_next h with ⟨es, he⟩ | ⟨rest, hs, -⟩ | ⟨e, rest, -, hframe⟩
  · have hcompleted := commandFrame_of_engineTurn (s := { s with schedule := es }) hb he
    exact .inr (.inl ⟨hcompleted.busy, hcompleted.done⟩)
  · exact .inr (.inr ⟨rest, hs⟩)
  · exact .inl (hframe.inProgress hb)

/-- Settles O58: a BUSY block's step uses an event up, and with none left the engine has its turn. -/
theorem everyCommandCompletes : Obligations.EveryCommandCompletes := by
  unfold Obligations.EveryCommandCompletes
  intro s hb
  obtain ⟨k, hk, hidle⟩ := exists_idle_within s.schedule rfl hb
  refine ⟨k, hk, ?_⟩
  split
  next t ht => exact hidle t ht
  · trivial
  · trivial

/-- Settles O59: OVR is a live register that no command reads, and the completion leaves the live registers. -/
theorem commandWordAndCompletionEitherOrder : Obligations.CommandWordAndCompletionEitherOrder := by
  unfold Obligations.CommandWordAndCompletionEitherOrder
  intro s t w hb h
  have hframe := commandFrame_of_engineTurn hb h
  exact ⟨⟨_, runFrom_dropped_then_completed hb h w, hframe.busy, rfl, hframe.latCmd, rfl, rfl⟩,
    ⟨_, runFrom_completed_then_accepted hb h w, rfl, hframe.ovr, rfl, hframe.params, rfl, rfl⟩⟩

/-- Settles O51: at reset WIDTH and DST_CAP are 0, which fails FILTER's and FRAME's checks; CRC and NOP complete. -/
theorem commandsRightAfterReset : Obligations.CommandsRightAfterReset := by
  unfold Obligations.CommandsRightAfterReset
  have hauto : decode 0x00060871#32 = .ok (.filterAuto 8 6) := decode_encode (i := .filterAuto 8 6) rfl
  have hframe : decode 0x00000002#32 = .ok .frame := decode_encode (i := .frame) rfl
  have hcrc : decode 0x00000003#32 = .ok .crc := decode_encode (i := .crc) rfl
  have hnop : decode 0x00000000#32 = .ok .nop := decode_encode (i := .nop) rfl
  refine ⟨⟨_, (step_withFetchWord hauto).trans (exec_fails (e := .dim) (by decide)), by decide, rfl⟩,
    ⟨_, (step_withFetchWord hframe).trans (exec_fails (e := .cap) (by decide)), by decide, rfl⟩,
    ⟨_, (step_withFetchWord hcrc).trans (exec_crc_valid (Nat.zero_le _) (by decide)), by decide, by decide⟩,
    ⟨_, (step_withFetchWord hnop).trans rfl, by decide, rfl⟩⟩

/-- Settles O53: on normal memory an access that no hazard forbids has its effect, one reply or one byte stored. -/
theorem hostMemoryAccessesAllowed : Obligations.HostMemoryAccessesAllowed := by
  unfold Obligations.HostMemoryAccessesAllowed
  intro s a v rest hwf hn
  refine ⟨fun hz hs => ?_, fun hz hs => ?_⟩
  · rw [step_memRead_normal hn hs, hz]
    exact ⟨_, rfl, ⟨rfl, rfl, rfl, rfl, rfl, rfl, rfl, rfl⟩, rfl⟩
  · rw [step_memWrite_normal hn hs, hz]
    have hread := Memory.read_write hwf a.toNat v
    exact ⟨_, rfl, (hread _).trans (if_pos rfl), fun b hb => (hread b).trans (if_neg hb),
      rfl, rfl, rfl, rfl, rfl, rfl⟩
end

section
/-! PROOFS. The mask and match columns of the opcode map (30_encoding.md R90, R93, section 4). -/

namespace Sys2Proof.Machine

/-! ## The mask of format F -/

/-- The mask of a format-F row: everything but BD and CT (30_encoding.md section 4). -/
def filterMask : Word := 0xFF0000FF#32

theorem extractLsb'_and_of_ones {w m : Word} {k n : Nat} (h : m.extractLsb' k n = BitVec.allOnes n) :
    (w &&& m).extractLsb' k n = w.extractLsb' k n := by
  rw [BitVec.extractLsb'_and, h, BitVec.and_allOnes]

theorem extractLsb'_and_of_zeros {w m : Word} {k n : Nat} (h : m.extractLsb' k n = 0#n) :
    (w &&& m).extractLsb' k n = 0#n := by
  rw [BitVec.extractLsb'_and, h, BitVec.and_zero]

/-- The mask keeps bits [7:0] and [31:24], and clears BD and CT between them. -/
theorem toNat_and_filterMask (w : Word) :
    (w &&& filterMask).toNat = w.toNat / 2 ^ 24 * 2 ^ 24 + w.toNat % 2 ^ 8 := by
  have hlow : (w &&& filterMask).toNat / 2 ^ 0 % 2 ^ 8 = w.toNat / 2 ^ 0 % 2 ^ 8 := by
    rw [← toNat_field, ← toNat_field, extractLsb'_and_of_ones (by decide)]
  have hmid : (w &&& filterMask).toNat / 2 ^ 8 % 2 ^ 16 = 0 := by
    rw [← toNat_field, extractLsb'_and_of_zeros (by decide), BitVec.toNat_zero]
  have hhigh : (w &&& filterMask).toNat / 2 ^ 24 % 2 ^ 8 = w.toNat / 2 ^ 24 % 2 ^ 8 := by
    rw [← toNat_field, ← toNat_field, extractLsb'_and_of_ones (by decide)]
  omega

/-- Masking a format-F word leaves its opcode and FSEL. -/
theorem filterWord_and_filterMask {fsel bd ct : Nat} (hf : fsel < 8) (h : formatFieldsFit bd ct = true) :
    filterWord fsel bd ct &&& filterMask = filterWord fsel 0 0 := by
  rw [formatFieldsFit, Bool.and_eq_true, decide_eq_true_eq, decide_eq_true_eq] at h
  obtain ⟨hbd, hct⟩ := h
  rw [← BitVec.toNat_inj, toNat_and_filterMask, toNat_filterWord hf hbd hct,
    toNat_filterWord hf (by decide) (by decide)]
  omega

/-- A word with format F's opcode and FSEL under the mask is a format-F word; BD and CT are free. -/
theorem eq_filterWord_of_and_filterMask {w : Word} {fsel : Nat} (hf : fsel < 8)
    (h : w &&& filterMask = filterWord fsel 0 0) : w = filterWord fsel (bdField w) (ctField w) := by
  rw [← BitVec.toNat_inj, toNat_and_filterMask, toNat_filterWord hf (by decide) (by decide)] at h
  rw [← BitVec.toNat_inj, bdField_eq, ctField_eq, toNat_filterWord hf (by omega) (by omega)]
  omega

/-! ## The rows -/

/-- A row of format S fixes the whole word; a row of format F is that of the filter a value of FSEL names
(R93, R94). -/
theorem opcode_row_cases (i : Instr) :
    (tableMask i = BitVec.allOnes 32 ∧ tableMatch i = encode i ∧ WellFormed i = true) ∨
      ∃ fsel bd ct, fsel < 8 ∧ filterOfFsel fsel bd ct = some i := by
  cases i with
  | nop => exact .inl ⟨rfl, rfl, rfl⟩
  | filterNone bd ct => exact .inr ⟨0, bd, ct, by decide, rfl⟩
  | filterSub bd ct => exact .inr ⟨1, bd, ct, by decide, rfl⟩
  | filterUp bd ct => exact .inr ⟨2, bd, ct, by decide, rfl⟩
  | filterAvg bd ct => exact .inr ⟨3, bd, ct, by decide, rfl⟩
  | filterPaeth bd ct => exact .inr ⟨4, bd, ct, by decide, rfl⟩
  | filterAuto bd ct => exact .inr ⟨7, bd, ct, by decide, rfl⟩
  | frame => exact .inl ⟨rfl, rfl, rfl⟩
  | crc => exact .inl ⟨rfl, rfl, rfl⟩

/-- The row of a filter is fixed by its FSEL. -/
theorem opcode_row_of_filterOfFsel {fsel bd ct : Nat} {i : Instr} (h : filterOfFsel fsel bd ct = some i) :
    tableMask i = filterMask ∧ tableMatch i = filterWord fsel 0 0 := by
  unfold filterOfFsel at h
  split at h <;> cases h <;> exact ⟨rfl, rfl⟩

/-- Whether a value of FSEL names a filter does not depend on BD and CT. -/
theorem exists_filterOfFsel_of_eq_some {fsel bd ct : Nat} {i : Instr} (hf : fsel < 8)
    (h : filterOfFsel fsel bd ct = some i) (bd' ct' : Nat) : ∃ j, filterOfFsel fsel bd' ct' = some j := by
  rw [← Option.ne_none_iff_exists', ne_eq, filterOfFsel_eq_none_iff hf, ← filterOfFsel_eq_none_iff hf bd ct, h]
  exact Option.some_ne_none i

theorem and_tableMask_of_decode {w : Word} {i : Instr} (h : decode w = .ok i) :
    w &&& tableMask i = tableMatch i := by
  obtain ⟨rfl, hwf⟩ := encode_decode h
  rcases opcode_row_cases i with ⟨hmask, hmatch, -⟩ | ⟨fsel, bd, ct, hf, hi⟩
  · rw [hmask, hmatch, BitVec.and_allOnes]
  · obtain ⟨hmask, hmatch⟩ := opcode_row_of_filterOfFsel hi
    obtain ⟨henc, hfit⟩ := encode_of_filterOfFsel hi
    rw [hmask, hmatch, henc, filterWord_and_filterMask hf (hfit ▸ hwf)]

theorem decode_of_and_tableMask {w : Word} {i : Instr} (h : w &&& tableMask i = tableMatch i) :
    ∃ j, decode w = .ok j ∧ tableMatch j = tableMatch i ∧ tableMask j = tableMask i := by
  rcases opcode_row_cases i with ⟨hmask, hmatch, hwf⟩ | ⟨fsel, bd, ct, hf, hi⟩
  · rw [hmask, hmatch, BitVec.and_allOnes] at h
    exact ⟨i, h ▸ decode_encode hwf, rfl, rfl⟩
  · obtain ⟨hmask, hmatch⟩ := opcode_row_of_filterOfFsel hi
    obtain ⟨j, hj⟩ := exists_filterOfFsel_of_eq_some hf hi (bdField w) (ctField w)
    obtain ⟨hmask', hmatch'⟩ := opcode_row_of_filterOfFsel hj
    rw [hmask, hmatch] at h
    have hdecode : decode w = .ok j := by
      rw [eq_filterWord_of_and_filterMask hf h]
      exact decode_filterWord hf (formatFieldsFit_fields w) hj
    exact ⟨j, hdecode, hmatch'.trans hmatch.symm, hmask'.trans hmask.symm⟩

end Sys2Proof.Machine

open Sys2Proof Sys2Proof.Machine

/-- Settles O8, by the two formats: a row of format S is one word, one of format F an FSEL with BD and CT free. -/
theorem decodeAgreesWithOpcodeMap : Obligations.DecodeAgreesWithOpcodeMap := by
  unfold Obligations.DecodeAgreesWithOpcodeMap
  exact ⟨fun _ _ h => and_tableMask_of_decode h, fun _ _ h => decode_of_and_tableMask h⟩
end

section
/-! PROOFS. How a command stops outside normal memory (20_memory.md R66, 60_exceptions.md R205,
93_implementation_defined.md U3, U6). -/

namespace Sys2Proof.Machine

/-- A command with valid operands is left to the platform's say. -/
theorem exec_eq_guardAccess {i : Instr} {s : State} (hv : commandOperandsValid i s.lat) :
    exec i s = guardAccess (readRange i s.lat) (writeRange i s.lat) (effectOf i) s := by
  rw [exec_eq_runChecked, (checksOf_eq_none i s.lat).2 hv, runChecked]

theorem guardAccess_device {reads writes : AddrRange} {effect : State → State} {s : State}
    (h : s.platform.meetsDevice reads = true ∨ s.platform.meetsDevice writes = true) :
    guardAccess reads writes effect s = .refused .deviceRange :=
  if_pos (Bool.or_eq_true _ _ ▸ h)

theorem guardAccess_absent {reads writes : AddrRange} {effect : State → State} {s : State}
    (hdr : s.platform.meetsDevice reads = false) (hdw : s.platform.meetsDevice writes = false)
    (h : s.platform.meetsKind .absent reads = true ∨ s.platform.meetsKind .absent writes = true) :
    guardAccess reads writes effect s = .fault .accessNotAdmitted := by
  rw [guardAccess, hdr, hdw, if_neg (by decide), if_pos (Bool.or_eq_true _ _ ▸ h)]

end Sys2Proof.Machine

open Sys2Proof Sys2Proof.Machine

/-- Settles O49: past its checks a command is left to the platform's say, which looks for a device first. -/
theorem commandsStopOutsideNormalMemory : Obligations.CommandsStopOutsideNormalMemory := by
  unfold Obligations.CommandsStopOutsideNormalMemory
  intro i s hv
  rw [exec_eq_guardAccess hv]
  exact ⟨guardAccess_device, guardAccess_absent⟩
end
